-- ==== Sys2Proof/Word.lean ====
section
/-! DEFINITION. The words GRL computes with: 8-bit bytes and 10-byte glyphs (00_scope.md R9, 30_encoding.md R145). -/

namespace Sys2Proof

/-- A `u8`: a character code, a command or data byte, a column, a page or a text length (R9, R145). -/
abbrev Byte := BitVec 8

/-- A glyph: exactly 10 bytes, byte `j` being one vertical slice of 8 pixels (40_glyph_rom.md R89). -/
abbrev Glyph := Vector Byte 10

end Sys2Proof
end

