-- ==== Sys2Proof/Config.lean ====
section
/-! DEFINITION. What is fixed for one GRL: the constants of 00_scope.md R7, the configuration parameters of R8, and the values the
spec leaves free. -/

namespace Sys2Proof

/-! The constants of R7. `GLYPH_INK_COLS` is 6 there, "informative only, no rule reads it". -/

def glyphCount : Nat := 11
def glyphBytes : Nat := 10
def glyphInkCols : Nat := 6
def displayCols : Nat := 128
def displayPages : Nat := 4
def pageRows : Nat := 8
def displayRows : Nat := 32
/-- Control prefix of a command frame (R7, R77). -/
def prefixCmd : Byte := 0x00
/-- Control prefix of a data frame (R7, R77). -/
def prefixData : Byte := 0x40
def frameBytes : Nat := 2
def nibbleMask : Byte := 0x0F
/-- The page the refresh loop renders on (R7, R87: the pseudo-operation only). -/
def renderPage : Byte := 1

/-- `PIXEL_BIT_ORDER` (R8, R66): which end of a column byte is the top pixel row. DEDUCED: two orders (notes/assumptions/12.md). -/
inductive PixelBitOrder where
  | lsbTop
  | msbTop
deriving DecidableEq, Repr, Inhabited

/-- What the transport does with one frame write (10_state.md R36, R38): it answers `OK`, it answers `ERR`, or it never answers. -/
inductive TransportReply where
  | ok
  | err
  | never
deriving DecidableEq, Repr, Inhabited

/-- The configuration parameters of R8 (`LINK`, the only one sampled at reset, is an input of `State.resetWith`). Read-only storage:
no step writes any of it (10_state.md R31 to R33). -/
structure Config where
  /-- `GLYPH_ROM[g][j]` (R31). -/
  glyphRom : Vector Glyph 11
  /-- `INIT_SEQ`, 16 items in the order of 42_controller_init.md R97 (R32). -/
  initSeq : Vector (List Byte) 16
  pageBase : Byte
  colLoBase : Byte
  colHiBase : Byte
  /-- `DEV_ADDR`, opaque: no rule reads its value (R8, 92_eei_decisions.md D7). -/
  devAddr : Nat
  pixelBitOrder : PixelBitOrder
deriving DecidableEq, Repr

namespace Config

/-- All command bytes of `INIT_SEQ`, items in order and bytes of an item in order (42_controller_init.md R98). -/
def initBytes (cfg : Config) : List Byte := cfg.initSeq.toList.flatten

/-- What the spec demands of a configuration: the column bases have a zero low nibble (10_state.md R33), every item of `INIT_SEQ` is
non-empty (R32), and there are at most 65535 command bytes (R25). Other configurations: notes/assumptions/19.md. -/
structure Wf (cfg : Config) : Prop where
  colLoBase_low : cfg.colLoBase &&& nibbleMask = 0
  colHiBase_low : cfg.colHiBase &&& nibbleMask = 0
  items_nonempty : ∀ item ∈ cfg.initSeq.toList, item ≠ []
  initBytes_le : cfg.initBytes.length ≤ 65535

/-- OPEN: the glyph bitmaps are not in the source (91_not_in_source.md N1); free. DESIGN CHOICE, safe (notes/assumptions/1.md). -/
opaque openGlyphRom : Vector Glyph 11

/-- OPEN: the transport's device address (N4); free. DESIGN CHOICE, safe (notes/assumptions/1.md). -/
opaque openDevAddr : Nat

/-- OPEN: the bit order of a column byte (N5); free. DESIGN CHOICE, safe (notes/assumptions/1.md). -/
opaque openPixelBitOrder : PixelBitOrder

/-- The free draw of 20_memory.md R49: the reply to the `n`-th write the model has not been given a reply for. DESIGN CHOICE, safe
(notes/assumptions/4.md). -/
opaque transportReply : Nat → TransportReply

/-- The reference `INIT_SEQ` of 93_implementation_defined.md I17. PRESUMED, unsafe (notes/assumptions/2.md). -/
def referenceInitSeq : Vector (List Byte) 16 :=
  #v[[0xAE], [0xD5, 0x80], [0xA8, 0x1F], [0xD3, 0x00], [0x40], [0x8D, 0x14], [0x20, 0x00], [0xA1],
     [0xC8], [0xDA, 0x02], [0x81, 0x8F], [0xD9, 0xF1], [0xDB, 0x40], [0xA4], [0xA6], [0xAF]]

/-- The configuration with the defaults of R8 (`INIT_SEQ` of I17, the bases of I18: PRESUMED, notes/assumptions/2.md) and the OPEN
parameters left free. No statement rests on it: statements hold for every configuration. -/
def reference : Config where
  glyphRom := openGlyphRom
  initSeq := referenceInitSeq
  pageBase := 0xB0
  colLoBase := 0x00
  colHiBase := 0x10
  devAddr := openDevAddr
  pixelBitOrder := openPixelBitOrder

end Config
end Sys2Proof
end

