-- ==== Sys2Proof/Syntax.lean ====
section
/-! DEFINITION. The abstract syntax: one constructor per row of spec/opcode_table.json. -/

namespace Sys2Proof

/-- The operations of spec/opcode_table.json. The first eight are the host's requests (30_encoding.md R73), the next two the frames
the block writes to the transport (R77), the last three the command bytes of a cursor setting (43_addressing.md R103). -/
inductive Instr where
  /-- `LOOKUP c` (R91). -/
  | lookup (c : Byte)
  /-- `CMD b`, `SEND b, 0` (R95). -/
  | cmd (b : Byte)
  /-- `DATA b`, `SEND b, 1` (R96). -/
  | data (b : Byte)
  /-- `INIT` (R101). -/
  | init
  /-- `SETCUR col, page` (R106). -/
  | setcur (col page : Byte)
  /-- `CLEAR` (R107). -/
  | clear
  /-- `RENDER x, page, "t"` (R110): `n` is the length of the text, whose bytes come on the `TEXT` port. -/
  | render (x : BitVec 32) (page n : Byte)
  /-- `CENTER n` (R112). -/
  | center (n : Byte)
  /-- `FRAME.CMD`: the 2-byte transport write `[0x00, b]` (R92, R78). -/
  | frameCmd (b : Byte)
  /-- `FRAME.DATA`: the 2-byte transport write `[0x40, b]` (R92, R78). -/
  | frameData (b : Byte)
  /-- `CTL.PAGE_SELECT`: frame 0 of a cursor setting, its command byte `PAGE_BASE +8 page` (R79, R103). -/
  | ctlPageSelect (page : Byte)
  /-- `CTL.COL_LO`: frame 1 of a cursor setting, its command byte `COL_LO_BASE +8 nibble` (R80, R103). -/
  | ctlColLo (nibble : Byte)
  /-- `CTL.COL_HI`: frame 2 of a cursor setting, its command byte `COL_HI_BASE +8 nibble` (R81, R103). -/
  | ctlColHi (nibble : Byte)
deriving DecidableEq, Repr

end Sys2Proof
end

