-- ==== Sys2Proof/WellFormed.lean ====
section
/-! DEFINITION. Which instruction terms have an encoding in spec/opcode_table.json. -/

namespace Sys2Proof

/-- Every operand of a request and of a frame fills an 8-bit or 32-bit field whole, so those terms are all well-formed (30_encoding.md
R71, R77: "The payload byte may be any value 0–255"; R74: operand fields "never make a request illegal"). The cursor command rows have
a 2-bit page ("for page 0-3 only") and 4-bit nibbles. -/
def Instr.wf : Instr → Bool
  | .lookup _ => true
  | .cmd _ => true
  | .data _ => true
  | .init => true
  | .setcur _ _ => true
  | .clear => true
  | .render _ _ _ => true
  | .center _ => true
  | .frameCmd _ => true
  | .frameData _ => true
  | .ctlPageSelect page => decide (page.toNat ≤ 3)
  | .ctlColLo nibble => decide (nibble.toNat ≤ 15)
  | .ctlColHi nibble => decide (nibble.toNat ≤ 15)

end Sys2Proof
end

