-- ==== Sys2Proof/Decode.lean ====
section
/-! DEFINITION. Encoding (30_encoding.md): the fields of a request word, the frames, the command bytes of a cursor setting, the total
decoder and, after it, the encoder. -/

namespace Sys2Proof

/-! ### The request word's fields (R70) -/

def reqOp (w : BitVec 64) : BitVec 4 := w.extractLsb' 0 4
def reqD (w : BitVec 64) : BitVec 1 := w.extractLsb' 4 1
def reqRsv (w : BitVec 64) : BitVec 3 := w.extractLsb' 5 3
def reqA (w : BitVec 64) : Byte := w.extractLsb' 8 8
def reqB (w : BitVec 64) : Byte := w.extractLsb' 16 8
def reqN (w : BitVec 64) : Byte := w.extractLsb' 24 8
def reqX (w : BitVec 64) : BitVec 32 := w.extractLsb' 32 32

/-! ### Command bytes of a cursor setting (R79 to R81) -/

/-- The page-select command byte `PAGE_BASE +8 p` (R79). -/
def pageSelectCommand (cfg : Config) (page : Byte) : Byte := cfg.pageBase + page

/-- The column-low command byte `COL_LO_BASE +8 (c & 0xF)` (R80). -/
def colLowCommand (cfg : Config) (col : Byte) : Byte := cfg.colLoBase + (col &&& nibbleMask)

/-- The column-high command byte `COL_HI_BASE +8 ((c >> 4) & 0xF)` (R81). -/
def colHighCommand (cfg : Config) (col : Byte) : Byte := cfg.colHiBase + ((col >>> 4) &&& nibbleMask)

/-- A frame written as one 16-bit number: the prefix is bits 15:8, the payload bits 7:0 (R78, R47). -/
def frameNumber (control payload : Byte) : BitVec 16 := (control.setWidth 16 <<< 8) ||| payload.setWidth 16

/-! ### Code words -/

/-- Which of the three frames of a cursor setting (20_memory.md R63: 0 = page select, 1 = column low, 2 = column high). -/
inductive CursorSlot where
  | pageSelect
  | colLow
  | colHigh
deriving DecidableEq, Repr

/-- What a decoder is given: a request word (R69), a frame as one 16-bit number (R78), or the command byte of a known frame of a cursor
setting. The slot stands beside that byte because no reader can tell an addressing command "by its bits alone" (R84). -/
inductive CodeWord where
  | request (w : BitVec 64)
  | frame (f : BitVec 16)
  | cursorByte (slot : CursorSlot) (b : Byte)
deriving DecidableEq, Repr

/-- Why a code word is no instruction. The first three are the illegal request words of R75; `foreignPrefix` is a frame that GRL never
makes (R77); `notCursorByte` is a byte outside a cursor command row of the opcode table. -/
inductive DecodeError where
  | reservedOp (op : BitVec 4)
  | reservedBits (rsv : BitVec 3)
  | dataBitOutsideSend (op : BitVec 4)
  | foreignPrefix (control : Byte)
  | notCursorByte (slot : CursorSlot) (b : Byte)
deriving DecidableEq, Repr

/-! ### Decoding -/

/-- `Legal(REQ)` of R74: `OP` is one of 0x1 to 0x7, `RSV = 0`, and `D = 0` unless `OP = 0x2`. -/
def legalRequest (w : BitVec 64) : Bool :=
  decide (1 ≤ (reqOp w).toNat) && decide ((reqOp w).toNat ≤ 7) && decide (reqRsv w = 0)
    && (decide (reqD w = 0) || decide (reqOp w = 0x2))

/-- The instruction a request word asks for (R71, R73), or why it is not `Legal` (R74). -/
def decodeRequest (w : BitVec 64) : Except DecodeError Instr :=
  if reqRsv w ≠ 0 then .error (.reservedBits (reqRsv w))
  else if reqOp w = 0x2 then .ok (if reqD w = 1 then .data (reqA w) else .cmd (reqA w))
  else if (reqOp w = 0 ∨ 8 ≤ (reqOp w).toNat) then .error (.reservedOp (reqOp w))
  else if reqD w ≠ 0 then .error (.dataBitOutsideSend (reqOp w))
  else if reqOp w = 0x1 then .ok (.lookup (reqA w))
  else if reqOp w = 0x3 then .ok .init
  else if reqOp w = 0x4 then .ok (.setcur (reqB w) (reqA w))
  else if reqOp w = 0x5 then .ok .clear
  else if reqOp w = 0x6 then .ok (.render (reqX w) (reqA w) (reqN w))
  else .ok (.center (reqB w))

/-- The frame a 16-bit number stands for (R78): prefix `0x00` or `0x40`, any payload (R77). -/
def decodeFrame (f : BitVec 16) : Except DecodeError Instr :=
  if f.extractLsb' 8 8 = prefixCmd then .ok (.frameCmd (f.extractLsb' 0 8))
  else if f.extractLsb' 8 8 = prefixData then .ok (.frameData (f.extractLsb' 0 8))
  else .error (.foreignPrefix (f.extractLsb' 8 8))

/-- The cursor command a byte stands for in a given frame of a cursor setting (R79 to R81 solved for the operand). -/
def decodeCursorByte (cfg : Config) (slot : CursorSlot) (b : Byte) : Except DecodeError Instr :=
  match slot with
  | .pageSelect =>
    if (b - cfg.pageBase).toNat ≤ 3 then .ok (.ctlPageSelect (b - cfg.pageBase)) else .error (.notCursorByte slot b)
  | .colLow =>
    if (b - cfg.colLoBase).toNat ≤ 15 then .ok (.ctlColLo (b - cfg.colLoBase)) else .error (.notCursorByte slot b)
  | .colHigh =>
    if (b - cfg.colHiBase).toNat ≤ 15 then .ok (.ctlColHi (b - cfg.colHiBase)) else .error (.notCursorByte slot b)

/-- The whole decoder: total, and rejecting by name. -/
def decode (cfg : Config) : CodeWord → Except DecodeError Instr
  | .request w => decodeRequest w
  | .frame f => decodeFrame f
  | .cursorByte slot b => decodeCursorByte cfg slot b

/-! ### Encoding -/

/-- A request word from its eight low bits and its operand fields (R70, R86). -/
def requestWord (low a b n : Byte) (x : BitVec 32) : BitVec 64 :=
  (x.setWidth 64 <<< 32) ||| (n.setWidth 64 <<< 24) ||| (b.setWidth 64 <<< 16) ||| (a.setWidth 64 <<< 8) ||| low.setWidth 64

/-- The code word of an instruction (R86 for requests, fields the operation ignores being 0; R78 for frames; R79 to R81 for the
command bytes). -/
def encode (cfg : Config) : Instr → CodeWord
  | .lookup c => .request (requestWord 0x01 c 0 0 0)
  | .cmd b => .request (requestWord 0x02 b 0 0 0)
  | .data b => .request (requestWord 0x12 b 0 0 0)
  | .init => .request (requestWord 0x03 0 0 0 0)
  | .setcur col page => .request (requestWord 0x04 page col 0 0)
  | .clear => .request (requestWord 0x05 0 0 0 0)
  | .render x page n => .request (requestWord 0x06 page 0 n x)
  | .center n => .request (requestWord 0x07 0 n 0 0)
  | .frameCmd b => .frame (frameNumber prefixCmd b)
  | .frameData b => .frame (frameNumber prefixData b)
  | .ctlPageSelect page => .cursorByte .pageSelect (cfg.pageBase + page)
  | .ctlColLo nibble => .cursorByte .colLow (cfg.colLoBase + nibble)
  | .ctlColHi nibble => .cursorByte .colHigh (cfg.colHiBase + nibble)

/-! ### The opcode table's words -/

/-- The readings of a word of spec/opcode_table.json, `nbits` bits long, in the order they are tried. An 8-bit word is the low byte of a
request (its operand fields 0) or a cursor command byte with the default bases; the rows of the two kinds share words (0x01 to 0x07 and
0x12), and the request is tried first. DESIGN CHOICE, safe (notes/assumptions/9.md). -/
def tableReadings (nbits w : Nat) : List CodeWord :=
  if nbits ≤ 8 then
    [.request (BitVec.ofNat 64 w), .cursorByte .pageSelect (BitVec.ofNat 8 w), .cursorByte .colLow (BitVec.ofNat 8 w),
     .cursorByte .colHigh (BitVec.ofNat 8 w)]
  else if nbits ≤ 16 then [.frame (BitVec.ofNat 16 w)]
  else [.request (BitVec.ofNat 64 w)]

/-- The first reading that decodes. -/
def firstReading : List CodeWord → Option Instr
  | [] => none
  | c :: rest =>
    match decode Config.reference c with
    | .ok i => some i
    | .error _ => firstReading rest

/-- The instruction the decoder reads from a word numbered as spec/opcode_table.json numbers it. -/
def decodeTableWord (nbits w : Nat) : Option Instr := firstReading (tableReadings nbits w)

end Sys2Proof
end

