-- ==== Sys2Proof/Machine/State.lean ====
section
/-! DEFINITION. The state of GRL, of the display behind it and of its environment, as plain data, and the state after reset. -/

namespace Sys2Proof.Machine

/-! ### Frames, tags and the transport history -/

/-- A frame `(prefix, byte)`: the 2-byte transport write (00_scope.md R12, 30_encoding.md R77). -/
structure Frame where
  control : Byte
  payload : Byte
deriving DecidableEq, Repr

/-- The role of a frame in its plan, never sent on the wire (20_memory.md R63). -/
inductive Tag where
  | init (last : Bool)
  | addr (slot : CursorSlot) (col page : Byte)
  | data
  | rawCmd
deriving DecidableEq, Repr

/-- An element of `PLAN`: a frame and its tag (10_state.md R24). -/
structure PlanEntry where
  frame : Frame
  tag : Tag
deriving DecidableEq, Repr

/-- The transport's answer to a write that it answered (R15, R36). -/
inductive Answer where
  | ok
  | err
deriving DecidableEq, Repr

/-- An element of `HIST`: `(frame, outcome, tag)` (R34). -/
structure HistEntry where
  frame : Frame
  outcome : Answer
  tag : Tag
deriving DecidableEq, Repr

/-! ### Result and contract fields -/

/-- The result codes of `STATUS` (R22, 60_exceptions.md R114). -/
inductive Status where
  | ok
  | writeError
  | openError
  | illegalRequest
deriving DecidableEq, Repr

/-- The sticky field `CV` (R30). -/
structure Cv where
  col : Bool
  page : Bool
  wide : Bool
deriving DecidableEq, Repr

/-! ### The display reference model's state (20_memory.md R61) -/

inductive DispCtl where
  | uninit
  | ready
  | unknown
deriving DecidableEq, Repr

/-- A known cursor: column 0 to 127, page 0 to 3. -/
structure Cursor where
  col : Fin 128
  page : Fin 4
deriving DecidableEq, Repr

/-- The display controller's 512 bytes of memory (R46). Byte `RAM[p][c]` is listed at address `128 * p + c`. An unlisted address reads
as ⊥, "any value is possible" (R61); canonical form: addresses strictly rising. -/
abbrev Memory := List Host.Cell

/-- `DISP` (R61); `cur = none` and an unlisted byte of `ram` stand for ⊥. -/
structure Disp where
  ctl : DispCtl
  cur : Option Cursor
  ram : Memory
deriving DecidableEq, Repr

/-! ### The environment -/

/-- The input `LINK`, sampled at reset (R15, R21). -/
inductive Link where
  | openOk
  | openFail
deriving DecidableEq, Repr

/-- What the host does next (R14, R15, R29, R132): present a request with the bytes on `TEXT`, read an output, let the block take a step
(`wait`), or pulse reset with a value of `LINK`. -/
inductive HostEvent where
  | request (w : BitVec 64) (text : List Byte)
  | readStatus
  | readLout
  | readXout
  | wait
  | reset (link : Link)
deriving DecidableEq, Repr

/-- What a host read returned. -/
inductive HostDatum where
  | statusWord (w : BitVec 32)
  | lout (g : Glyph)
  | xout (x : BitVec 32)
deriving DecidableEq, Repr

/-! ### The state -/

/-- Everything the spec gives the machine (10_state.md, 20_memory.md R61), the inputs of its environment, and two model fields of its
own (`draws`, `lastRead`). -/
structure State where
  /-- Read-only storage and configuration (R31 to R33). -/
  cfg : Config
  /-- The request latch `REQ` (R17). -/
  req : BitVec 64
  /-- The text latch `TXT` (R18). -/
  txt : List Byte
  /-- `BUSY` (R20). -/
  busy : Bool
  /-- `FATAL` (R21). -/
  fatal : Bool
  /-- `STATUS` (R22). -/
  status : Status
  /-- `FAILIDX` (R23). -/
  failidx : BitVec 16
  /-- `CV_COL`, `CV_PAGE`, `CV_WIDE` (R30). -/
  cv : Cv
  /-- `LOUT` (R27). -/
  lout : Glyph
  /-- `LOUT_VALID` (R27). -/
  loutValid : Bool
  /-- `XOUT`, signed (R28). -/
  xout : BitVec 32
  /-- `XOUT_VALID` (R28). -/
  xoutValid : Bool
  /-- `PLAN` (R24). -/
  plan : List PlanEntry
  /-- `K` (R26). -/
  k : BitVec 16
  /-- `HIST`, oldest first (R34). -/
  hist : List HistEntry
  /-- `DISP` (20_memory.md R61), computed from `HIST` entry by entry (DEDUCED, safe: notes/assumptions/18.md). -/
  disp : Disp
  /-- What the host does, next event first (R14). DESIGN CHOICE, safe (notes/assumptions/6.md). -/
  inbox : List HostEvent
  /-- The transport's replies to the coming writes, next first; past its end the free draw `Config.transportReply` answers (R36, R49). -/
  replies : List TransportReply
  /-- The model's own counter: how many free draws have been taken. -/
  draws : Nat
  /-- The model's own record of what the last host read returned. -/
  lastRead : Option HostDatum
deriving DecidableEq, Repr

/-- Why the machine stops. -/
inductive Fault where
  /-- `UNWRITTEN_OUTPUT` (60_exceptions.md R120): a host read of `LOUT` while `LOUT_VALID = 0`. Raised by the host-read step, never by an
  instruction (10_state.md R27, R40: "reading it faults"; 93_implementation_defined.md I6). Safe: GRL "would return some unspecified bits,
  and a model must not pick them". -/
  | unwrittenLout
  /-- `UNWRITTEN_OUTPUT` (R120): a host read of `XOUT` while `XOUT_VALID = 0` (10_state.md R28, R40;
  93_implementation_defined.md I6). Raised by the host-read step, never by an instruction. Safe. -/
  | unwrittenXout
deriving DecidableEq, Repr

/-- Why there is no step. -/
inductive Refusal where
  /-- An instruction without a meaning; raised by no arm of `exec`. Safe. -/
  | notModelled (mnemonic : String)
  /-- `MALFORMED_TEXT` (R120, 30_encoding.md R72): a `RENDER` with fewer than `N` bytes of text "has no Accept step". Raised by RENDER.
  Safe. -/
  | malformedText
  /-- An Emit step that is not enabled (10_state.md R36: "enabled only while `BUSY = 1`", and for the frame `PLAN[K]`). Raised by FRAME.*
  and CTL.* when the sequencer does not stand at that frame. Safe. -/
  | emitNotEnabled
  /-- `PLAN[K]` has a prefix that GRL never makes (30_encoding.md R77); no reachable state has one. Raised by the fetch. Safe
  (notes/assumptions/13.md). -/
  | foreignFrame
deriving DecidableEq, Repr

/-- `DISP` at reset (20_memory.md R62). -/
def Disp.reset : Disp where
  ctl := .uninit
  cur := none
  ram := []

/-- Every element at the reset value of 10_state.md R40, `LINK` sampled into `FATAL` (70_reset_and_hazards.md R132). `REQ`, `LOUT` and
`XOUT` are "unspecified" there; the model holds zero in them and lets no host read see it. DESIGN CHOICE, unsafe
(notes/assumptions/3.md). -/
def State.resetWith (cfg : Config) (link : Link) : State where
  cfg := cfg
  req := 0
  txt := []
  busy := false
  fatal := decide (link = .openFail)
  status := .ok
  failidx := 0
  cv := ⟨false, false, false⟩
  lout := Vector.replicate 10 0
  loutValid := false
  xout := 0
  xoutValid := false
  plan := []
  k := 0
  hist := []
  disp := Disp.reset
  inbox := []
  replies := []
  draws := 0
  lastRead := none

/-- The machine right after reset, with `LINK = OPEN_OK` (DESIGN CHOICE, unsafe: notes/assumptions/5.md) and the configuration of
`Config.reference`. -/
def State.reset : State := State.resetWith Config.reference .openOk

end Sys2Proof.Machine
end

