-- ==== Sys2Proof/Machine/Operands.lean ====
section
/-! DEFINITION. The operand forms: reads of the glyph ROM, of the initialization list and of the text latch (00_scope.md R13), the
glyph of a character (40_glyph_rom.md), the signed start column, and the frames that operands turn into (41 to 44). -/

namespace Sys2Proof.Machine

/-! ### Glyph ROM (40_glyph_rom.md R88, R89) -/

/-- `GlyphIndex(c)` (R88): '0' to '9' are 0x30 to 0x39, ':' is 0x3A, any other code falls back to the glyph of '0'. -/
def glyphIndex (c : Byte) : Fin 11 :=
  if h : 0x30 ≤ c.toNat ∧ c.toNat ≤ 0x39 then ⟨c.toNat - 0x30, by omega⟩
  else if c = 0x3A then 10
  else 0

/-- `GlyphRead(g, j)` (00_scope.md R13): no side effect. -/
def glyphRead (cfg : Config) (g : Fin 11) (j : Fin 10) : Byte := (cfg.glyphRom[g])[j]

/-- `Glyph(c)` (R89): the ten bytes of the character's glyph. -/
def glyphOf (cfg : Config) (c : Byte) : Glyph := Vector.ofFn (fun j => glyphRead cfg (glyphIndex c) j)

/-- `GlyphStream(t)` (44_frame_renderer.md R108). -/
def glyphStream (cfg : Config) (text : List Byte) : List Byte := text.flatMap (fun c => (glyphOf cfg c).toList)

/-! ### Initialization list and text latch (00_scope.md R13) -/

/-- `InitItem(i)`: no side effect. -/
def initItem (cfg : Config) (i : Fin 16) : List Byte := cfg.initSeq[i]

/-- `TXT[0 .. n-1]`, the bytes that `TextRead(i)` reads in order (20_memory.md R43). -/
def latchedText (s : State) (n : Byte) : List Byte := s.txt.take n.toNat

/-! ### The start column (30_encoding.md R71, 44_frame_renderer.md R110, R112) -/

/-- `x = sext_32(X)`: `X` read as a signed 32-bit number (R71). -/
def startColumn (x : BitVec 32) : Int := x.toInt

/-- `trunc_8(x)`: the column a render addresses (R110, 92_eei_decisions.md D11). -/
def renderColumn (x : BitVec 32) : Byte := x.setWidth 8

/-- `(128 - 10 n) / 2`, the division truncating toward zero (R112, 00_scope.md R11). -/
def centerColumn (n : Byte) : Int := Int.tdiv (128 - 10 * (n.toNat : Int)) 2

/-! ### The protocol encoder (41_protocol_encoder.md R92) -/

/-- `frame(b, isData)` (R92). -/
def encodeFrame (b : Byte) (isData : Bool) : Frame := ⟨if isData then prefixData else prefixCmd, b⟩

/-- `cmd(b) = (0x00, b)`. -/
def cmdFrame (b : Byte) : Frame := encodeFrame b false

/-- `dat(b) = (0x40, b)`. -/
def datFrame (b : Byte) : Frame := encodeFrame b true

/-- The frame as one 16-bit number (30_encoding.md R78). -/
def Frame.number (f : Frame) : BitVec 16 := frameNumber f.control f.payload

/-- The transport call of `Emit(f)` (20_memory.md R49): `write(DEV_ADDR, [p, b])`, two bytes, the prefix first (R47). -/
def transportCall (cfg : Config) (f : Frame) : Nat × List Byte := (cfg.devAddr, [f.control, f.payload])

/-! ### The plans (10_state.md R24) -/

/-- A data frame of a plan. -/
def dataEntry (b : Byte) : PlanEntry := ⟨datFrame b, .data⟩

/-- `CursorFrames(col, page)` (43_addressing.md R103): page select, column low, column high, in this order. -/
def cursorFrames (cfg : Config) (col page : Byte) : List PlanEntry :=
  [⟨cmdFrame (pageSelectCommand cfg page), .addr .pageSelect col page⟩,
   ⟨cmdFrame (colLowCommand cfg col), .addr .colLow col page⟩,
   ⟨cmdFrame (colHighCommand cfg col), .addr .colHigh col page⟩]

/-- The tagged frames of a list of initialization bytes; the last one carries `T_INIT(true)` (42_controller_init.md R101). -/
def initEntries : List Byte → List PlanEntry
  | [] => []
  | [b] => [⟨cmdFrame b, .init true⟩]
  | b :: b' :: rest => ⟨cmdFrame b, .init false⟩ :: initEntries (b' :: rest)

/-- `Plan(INIT)` (R101). -/
def planInit (cfg : Config) : List PlanEntry := initEntries cfg.initBytes

/-- One page of a `CLEAR`: the cursor at column 0, then 128 zero data bytes (44_frame_renderer.md R107). -/
def clearPage (cfg : Config) (page : Byte) : List PlanEntry :=
  cursorFrames cfg 0 page ++ List.replicate displayCols (dataEntry 0)

/-- `Plan(CLEAR)` (R107): pages 0, 1, 2, 3. -/
def planClear (cfg : Config) : List PlanEntry :=
  clearPage cfg 0 ++ clearPage cfg 1 ++ clearPage cfg 2 ++ clearPage cfg 3

/-- `Plan(RENDER)` (R110). -/
def planRender (cfg : Config) (x : BitVec 32) (page : Byte) (text : List Byte) : List PlanEntry :=
  cursorFrames cfg (renderColumn x) page ++ (glyphStream cfg text).map dataEntry

end Sys2Proof.Machine
end

