-- ==== Sys2Proof/Machine/Display.lean ====
section
/-! DEFINITION. The display controller's reference model (20_memory.md section 6): its memory, and what each entry of the transport
history does to it. It is an observation of the frames, not a part of GRL. -/

namespace Sys2Proof.Machine

/-! ### Memory -/

/-- The canonical form: addresses strictly rising, all inside the 4 × 128 bytes of R46. Every listed byte is known, so none equals the ⊥
that an unlisted address reads as. -/
abbrev Memory.wf (m : Memory) : Prop := m.Pairwise (fun a b => a.1 < b.1) ∧ ∀ cell ∈ m, cell.1 < 512

/-- The byte at an address; `none` is ⊥ (R61). -/
def Memory.read : Memory → Nat → Option Byte
  | [], _ => none
  | (b, v) :: rest, a => if a = b then some v else Memory.read rest a

/-- Make the byte at an address known. -/
def Memory.write : Memory → Nat → Byte → Memory
  | [], a, v => [(a, v)]
  | (b, w) :: rest, a, v =>
    if a < b then (a, v) :: (b, w) :: rest
    else if a = b then (a, v) :: rest
    else (b, w) :: Memory.write rest a v

/-- `RAM` all ⊥. -/
def Memory.unknown : Memory := []

/-- Where the model lists `RAM[page][col]`. DESIGN CHOICE, safe (notes/assumptions/8.md). -/
def Cursor.address (c : Cursor) : Nat := 128 * c.page.val + c.col.val

/-- `RAM[page][col]` (R61). -/
def Disp.byteAt (d : Disp) (c : Cursor) : Option Byte := d.ram.read c.address

/-! ### The cursor (R65) -/

/-- `Next(c, p)` (R65): the next column, at the row's end column 0 of the next page, and ⊥ after (127, 3). -/
def Cursor.next (c : Cursor) : Option Cursor :=
  if h : c.col.val < 127 then some ⟨⟨c.col.val + 1, by omega⟩, c.page⟩
  else if h : c.page.val < 3 then some ⟨0, ⟨c.page.val + 1, by omega⟩⟩
  else none

/-- The cursor of 8-bit operands when they are in range (R64: `col <= 127` and `page <= 3`). -/
def cursorInRange (col page : Byte) : Option Cursor :=
  if h : col.toNat < 128 ∧ page.toNat < 4 then some ⟨⟨col.toNat, h.1⟩, ⟨page.toNat, h.2⟩⟩ else none

/-! ### Effects of one history entry (R64) -/

/-- Nothing is known of cursor and memory any more; the configuration becomes `ctl`. -/
def Disp.forget (ctl : DispCtl) : Disp := ⟨ctl, none, Memory.unknown⟩

/-- A write answered `ERR` (R64, R52): the configuration is lost only when the frame was an initialization or raw command byte. -/
def Disp.failed (d : Disp) : Tag → Disp
  | .init _ => Disp.forget .unknown
  | .rawCmd => Disp.forget .unknown
  | .addr _ _ _ => Disp.forget d.ctl
  | .data => Disp.forget d.ctl

/-- Frame 2 of a cursor setting, delivered (R64). -/
def Disp.setCursor (d : Disp) (col page : Byte) : Disp :=
  match d.ctl, cursorInRange col page with
  | .ready, some c => { d with cur := some c }
  | .ready, none => Disp.forget .unknown
  | .uninit, _ => { d with cur := none }
  | .unknown, _ => { d with cur := none }

/-- A data byte, delivered (R64): it paints at a known cursor of a `READY` display, otherwise it "may have landed anywhere". -/
def Disp.paint (d : Disp) (b : Byte) : Disp :=
  match d.ctl, d.cur with
  | .ready, some c => { d with ram := d.ram.write c.address b, cur := c.next }
  | .ready, none => Disp.forget d.ctl
  | .uninit, _ => Disp.forget d.ctl
  | .unknown, _ => Disp.forget d.ctl

/-- A frame answered `OK`, by its tag (R64). -/
def Disp.delivered (d : Disp) (b : Byte) : Tag → Disp
  | .init last => Disp.forget (if last then .ready else .unknown)
  | .addr .pageSelect _ _ => { d with cur := none }
  | .addr .colLow _ _ => { d with cur := none }
  | .addr .colHigh col page => d.setCursor col page
  | .data => d.paint b
  | .rawCmd => Disp.forget .unknown

/-- `DispStep((f, r, t))` (R64). -/
def dispStep (d : Disp) (e : HistEntry) : Disp :=
  match e.outcome with
  | .ok => d.delivered e.frame.payload e.tag
  | .err => d.failed e.tag

/-- `DISP` computed from `HIST` and nothing else (10_state.md R34, R64). -/
def Disp.ofHist (h : List HistEntry) : Disp := h.foldl dispStep Disp.reset

/-! ### Pixels (R66) -/

/-- Which bit of a column byte is pixel row `r` of its page, under `PIXEL_BIT_ORDER`. -/
def pixelBit (order : PixelBitOrder) (r : Fin 8) : Nat :=
  match order with
  | .lsbTop => r.val
  | .msbTop => 7 - r.val

/-- The pixel at column `col` and row `row` (R66): one bit of `RAM[row / 8][col]`; `none` when the byte is ⊥. -/
def Disp.pixel (d : Disp) (order : PixelBitOrder) (col : Fin 128) (row : Fin 32) : Option Bool :=
  (d.byteAt ⟨col, ⟨row.val / 8, by omega⟩⟩).map
    (fun b => b.getLsbD (pixelBit order ⟨row.val % 8, by omega⟩))

end Sys2Proof.Machine
end

