-- ==== Sys2Proof/Machine/Flags.lean ====
section
/-! DEFINITION. The status word (10_state.md R29) and the contract flags (R30, 43_addressing.md R104, 44_frame_renderer.md R109). -/

namespace Sys2Proof.Machine

/-- No contract violation. -/
def Cv.none : Cv := ⟨false, false, false⟩

/-- `CV | flags`: the sticky accumulation of R30. -/
def Cv.or (a b : Cv) : Cv := ⟨a.col || b.col, a.page || b.page, a.wide || b.wide⟩

/-- `CvCursor(col, page)` (R104): `CV_COL` when `col > 127`, `CV_PAGE` when `page > 3`. -/
def cvCursor (col page : Byte) : Cv := ⟨decide (127 < col.toNat), decide (3 < page.toNat), false⟩

/-- `CvRender(x, page, n)` (R109): `CV_COL` when `x < 0` or `x > 127`, `CV_PAGE` when `page > 3`, `CV_WIDE` when `10·n > 128`. -/
def cvRender (x : BitVec 32) (page n : Byte) : Cv :=
  ⟨decide (startColumn x < 0 ∨ 127 < startColumn x), decide (3 < page.toNat), decide (128 < 10 * n.toNat)⟩

/-- The 2-bit code of a result (R22, 60_exceptions.md R114). -/
def Status.code : Status → BitVec 2
  | .ok => 0
  | .writeError => 1
  | .openError => 2
  | .illegalRequest => 3

/-- A one-bit field of a 32-bit word at its position. -/
def bitField (v : Bool) (pos : Nat) : BitVec 32 := (BitVec.ofBool v).setWidth 32 <<< pos

/-- `STATUS_WORD` (R29): the field layout, bits 15:9 reading as 0. -/
def statusWord (s : State) : BitVec 32 :=
  (s.failidx.setWidth 32 <<< 16) ||| bitField s.xoutValid 8 ||| bitField s.loutValid 7 ||| bitField s.cv.wide 6
    ||| bitField s.cv.page 5 ||| bitField s.cv.col 4 ||| (s.status.code.setWidth 32 <<< 2) ||| bitField s.fatal 1
    ||| bitField s.busy 0

end Sys2Proof.Machine
end

