-- ==== Sys2Proof/Machine/Ops.lean ====
section
/-! DEFINITION. The shared operations: taking an exception, the Accept body of a request (10_state.md R35) and the Emit step of a frame
(R36). -/

namespace Sys2Proof.Machine

/-! ### Exceptions (60_exceptions.md) -/

/-- The three exceptions of 60_exceptions.md R114. -/
inductive GrlException where
  | writeError (k : BitVec 16)
  | openError
  | illegalRequest
deriving DecidableEq, Repr

/-- Taking an exception (R123): it "saves nothing but `STATUS` and, for `WRITE_ERROR`, `FAILIDX`", and the block returns to idle. There
is no vector, no saved program counter and no mode change, and "no return-from-exception operation" (R124). -/
def takeException (e : GrlException) (s : State) : State :=
  match e with
  | .writeError k => { s with status := .writeError, failidx := k, busy := false }
  | .openError => { s with status := .openError, busy := false }
  | .illegalRequest => { s with status := .illegalRequest, busy := false }

/-! ### Accept (R35) -/

/-- The end of Accept (R35): latch the plan; a request with an empty plan completes at once with `OK`, any other is now `BUSY`. -/
def startPlan (plan : List PlanEntry) (s : State) : State :=
  match plan with
  | [] => { s with plan := [], k := 0, status := .ok }
  | e :: rest => { s with plan := e :: rest, k := 0, busy := true }

/-- Accept of a legal request that writes to the transport, after `REQ` and `TXT` are latched (R35, R122): `OPEN_ERROR` while `FATAL`,
otherwise `CV` is updated and the plan starts. A request presented while `BUSY = 1` is held (R37): nothing changes. DESIGN CHOICE, safe
(notes/assumptions/11.md). -/
def acceptEmitting (flags : Cv) (plan : List PlanEntry) (s : State) : State :=
  if s.busy then s
  else if s.fatal then takeException .openError s
  else startPlan plan { s with cv := s.cv.or flags }

/-- Accept of `LOOKUP` and `CENTER`: the output registers are written and the plan is empty; they work while `FATAL = 1` too (R116,
92_eei_decisions.md D29). While `BUSY = 1` as for `acceptEmitting` (notes/assumptions/11.md). -/
def acceptOutput (outputs : State → State) (s : State) : State :=
  if s.busy then s else startPlan [] (outputs s)

/-! ### Emit (R36) -/

/-- The transport's reply to the next write: the next given one, or a free draw (R36, 20_memory.md R49). DESIGN CHOICE, safe
(notes/assumptions/4.md). -/
def nextReply (s : State) : TransportReply :=
  match s.replies with
  | r :: _ => r
  | [] => Config.transportReply s.draws

/-- The reply of `nextReply` is used up. -/
def consumeReply (s : State) : State :=
  match s.replies with
  | _ :: rest => { s with replies := rest }
  | [] => { s with draws := s.draws + 1 }

/-- Record an answered write in `HIST` (R36); the display receives it (20_memory.md R64). -/
def recordWrite (e : PlanEntry) (r : Answer) (s : State) : State :=
  { s with hist := s.hist ++ [⟨e.frame, r, e.tag⟩], disp := dispStep s.disp ⟨e.frame, r, e.tag⟩ }

/-- Advance `K` after a delivered frame; past the plan's end the request completes with `OK` (R36). -/
def advance (s : State) : State :=
  if (s.k + 1).toNat = s.plan.length then { s with k := s.k + 1, status := .ok, busy := false }
  else { s with k := s.k + 1 }

/-- `EmitStep(r)` on the plan entry `e` (R36, 60_exceptions.md R115). Without an answer the step never happens and `BUSY` stays 1
(R38): the state stays as it is. DESIGN CHOICE, safe (notes/assumptions/14.md). -/
def emitEntry (e : PlanEntry) (s : State) : State :=
  match nextReply s with
  | .ok => advance (recordWrite e .ok (consumeReply s))
  | .err => takeException (.writeError s.k) (recordWrite e .err (consumeReply s))
  | .never => s

/-- The plan entry the sequencer stands at: `PLAN[K]` while `BUSY = 1` (R36). -/
def currentEntry (s : State) : Option PlanEntry := if s.busy then s.plan[s.k.toNat]? else none

/-- The Emit step of one particular frame, enabled only when the sequencer stands at it (R36). DESIGN CHOICE, safe
(notes/assumptions/13.md). -/
def emitWhen (wanted : PlanEntry → Bool) (s : State) : Host.Outcome State Fault Refusal :=
  match currentEntry s with
  | some e => if wanted e then .next (emitEntry e s) else .refused .emitNotEnabled
  | none => .refused .emitNotEnabled

end Sys2Proof.Machine
end

