-- ==== Sys2Proof/Machine/Cursor.lean ====
section
/-! DEFINITION. The page/column address generator: SETCUR (43_addressing.md R106), and the three command bytes of a cursor setting as
the Emit steps of its frames (R103, 10_state.md R36). -/

namespace Sys2Proof.Machine

/-- `SETCUR col, page` (R106): the contract flags of R104, and the three cursor frames. -/
def execSetcur (col page : Byte) (s : State) : Host.Outcome State Fault Refusal :=
  .next (acceptEmitting (cvCursor col page) (cursorFrames s.cfg col page) s)

/-- The plan entry is frame `slot` of a cursor setting, with this command byte (R103). That the table's cursor command rows mean the
Emit steps of these frames is DEDUCED, safe (notes/assumptions/15.md). -/
def isCursorEntry (slot : CursorSlot) (b : Byte) (e : PlanEntry) : Bool :=
  match e.tag with
  | .addr slot' _ _ => decide (slot' = slot) && decide (e.frame = cmdFrame b)
  | .init _ => false
  | .data => false
  | .rawCmd => false

/-- `CTL.PAGE_SELECT`: emit frame 0 of a cursor setting, `PAGE_BASE +8 page` (R79, R103). -/
def execCtlPageSelect (page : Byte) (s : State) : Host.Outcome State Fault Refusal :=
  emitWhen (isCursorEntry .pageSelect (s.cfg.pageBase + page)) s

/-- `CTL.COL_LO`: emit frame 1 of a cursor setting, `COL_LO_BASE +8 nibble` (R80, R103). -/
def execCtlColLo (nibble : Byte) (s : State) : Host.Outcome State Fault Refusal :=
  emitWhen (isCursorEntry .colLow (s.cfg.colLoBase + nibble)) s

/-- `CTL.COL_HI`: emit frame 2 of a cursor setting, `COL_HI_BASE +8 nibble` (R81, R103). -/
def execCtlColHi (nibble : Byte) (s : State) : Host.Outcome State Fault Refusal :=
  emitWhen (isCursorEntry .colHigh (s.cfg.colHiBase + nibble)) s

end Sys2Proof.Machine
end

