-- ==== Sys2Proof/Machine/FrameWrite.lean ====
section
/-! DEFINITION. The two frame kinds as the Emit steps of the block (10_state.md R36, 41_protocol_encoder.md R92). -/

namespace Sys2Proof.Machine

/-- `FRAME.CMD`: the transport write `[0x00, b]` of the plan's current frame (R36, R92). -/
def execFrameCmd (b : Byte) (s : State) : Host.Outcome State Fault Refusal :=
  emitWhen (fun e => decide (e.frame = cmdFrame b)) s

/-- `FRAME.DATA`: the transport write `[0x40, b]` of the plan's current frame (R36, R92). -/
def execFrameData (b : Byte) (s : State) : Host.Outcome State Fault Refusal :=
  emitWhen (fun e => decide (e.frame = datFrame b)) s

end Sys2Proof.Machine
end

