-- ==== Sys2Proof/Machine/Glyph.lean ====
section
/-! DEFINITION. The glyph ROM's request: LOOKUP (40_glyph_rom.md R91). -/

namespace Sys2Proof.Machine

/-- `LOUT <- Glyph(c)`, `LOUT_VALID <- 1` (R91). -/
def writeLout (c : Byte) (s : State) : State := { s with lout := glyphOf s.cfg c, loutValid := true }

/-- `LOOKUP c` (R91): no frame; it completes at Accept. -/
def execLookup (c : Byte) (s : State) : Host.Outcome State Fault Refusal :=
  .next (acceptOutput (writeLout c) s)

end Sys2Proof.Machine
end

