-- ==== Sys2Proof/Machine/Initializer.lean ====
section
/-! DEFINITION. The controller initializer's request: INIT (42_controller_init.md R101). -/

namespace Sys2Proof.Machine

/-- `INIT` (R101, R102): the plan depends on `INIT_SEQ` alone. -/
def execInit (s : State) : Host.Outcome State Fault Refusal :=
  .next (acceptEmitting Cv.none (planInit s.cfg) s)

end Sys2Proof.Machine
end

