-- ==== Sys2Proof/Machine/Renderer.lean ====
section
/-! DEFINITION. The bitmap frame renderer's requests: CLEAR, RENDER and CENTER (44_frame_renderer.md). -/

namespace Sys2Proof.Machine

/-- `CLEAR` (R107). -/
def execClear (s : State) : Host.Outcome State Fault Refusal :=
  .next (acceptEmitting Cv.none (planClear s.cfg) s)

/-- `RENDER x, page, "t"` (R110), the text in the latch `TXT`. With fewer than `n` bytes there it "has no Accept step" (30_encoding.md
R72): refused as `MALFORMED_TEXT` (60_exceptions.md R120), in every mode (DEDUCED, safe: notes/assumptions/16.md). -/
def execRender (x : BitVec 32) (page n : Byte) (s : State) : Host.Outcome State Fault Refusal :=
  if s.txt.length < n.toNat then .refused .malformedText
  else .next (acceptEmitting (cvRender x page n) (planRender s.cfg x page (latchedText s n)) s)

/-- `XOUT <- (128 - 10 n) / 2`, `XOUT_VALID <- 1` (R112). -/
def writeXout (n : Byte) (s : State) : State := { s with xout := BitVec.ofInt 32 (centerColumn n), xoutValid := true }

/-- `CENTER n` (R112): no frame; it completes at Accept. -/
def execCenter (n : Byte) (s : State) : Host.Outcome State Fault Refusal :=
  .next (acceptOutput (writeXout n) s)

end Sys2Proof.Machine
end

