-- ==== Sys2Proof/Machine/Send.lean ====
section
/-! DEFINITION. The protocol encoder's requests: CMD and DATA, the two forms of SEND (41_protocol_encoder.md R95, R96). -/

namespace Sys2Proof.Machine

/-- `CMD b` (R95): `Plan = [(cmd(b), T_RAWCMD)]`. -/
def execCmd (b : Byte) (s : State) : Host.Outcome State Fault Refusal :=
  .next (acceptEmitting Cv.none [⟨cmdFrame b, .rawCmd⟩] s)

/-- `DATA b` (R96): `Plan = [(dat(b), T_DATA)]`. -/
def execData (b : Byte) (s : State) : Host.Outcome State Fault Refusal :=
  .next (acceptEmitting Cv.none [dataEntry b] s)

end Sys2Proof.Machine
end

