-- ==== Sys2Proof/Machine/Dispatch.lean ====
section
/-! DEFINITION. One arm per constructor of Instr. -/

namespace Sys2Proof.Machine

def exec (i : Instr) (s : State) : Host.Outcome State Fault Refusal :=
  match i with
  | .lookup c => Sys2Proof.Machine.execLookup c s
  | .cmd b => Sys2Proof.Machine.execCmd b s
  | .data b => Sys2Proof.Machine.execData b s
  | .init => Sys2Proof.Machine.execInit s
  | .setcur col page => Sys2Proof.Machine.execSetcur col page s
  | .clear => Sys2Proof.Machine.execClear s
  | .render x page n => Sys2Proof.Machine.execRender x page n s
  | .center n => Sys2Proof.Machine.execCenter n s
  | .frameCmd b => Sys2Proof.Machine.execFrameCmd b s
  | .frameData b => Sys2Proof.Machine.execFrameData b s
  | .ctlPageSelect page => Sys2Proof.Machine.execCtlPageSelect page s
  | .ctlColLo nibble => Sys2Proof.Machine.execCtlColLo nibble s
  | .ctlColHi nibble => Sys2Proof.Machine.execCtlColHi nibble s

end Sys2Proof.Machine
end

