-- ==== Sys2Proof/Machine/Sequencer.lean ====
section
/-! DEFINITION. What a step is made of: fetching and emitting the plan's current frame, accepting a presented request, the host's reads
and its reset (10_state.md R35 to R37, R29, 70_reset_and_hazards.md R132); and placing one instruction to be fetched next. -/

namespace Sys2Proof.Machine

/-! ### The block's step -/

/-- The instruction a plan entry is: a cursor command byte when the entry is tagged as one of a cursor setting and the byte is a row's
(30_encoding.md R84: decoding "needs the frame's tag"), and otherwise a command or data frame (R77, R78). DEDUCED, safe
(notes/assumptions/15.md). -/
def decodeEntry (cfg : Config) (e : PlanEntry) : Except DecodeError Instr :=
  match e.tag with
  | .addr slot _ _ =>
    match decode cfg (.cursorByte slot e.frame.payload) with
    | .ok i => if e.frame.control = prefixCmd then .ok i else decode cfg (.frame e.frame.number)
    | .error _ => decode cfg (.frame e.frame.number)
  | .init _ => decode cfg (.frame e.frame.number)
  | .data => decode cfg (.frame e.frame.number)
  | .rawCmd => decode cfg (.frame e.frame.number)

/-- The block's step (R36): emit `PLAN[K]` while `BUSY = 1`; otherwise the block is idle and nothing changes (notes/assumptions/6.md). -/
def blockStep (s : State) : Host.Outcome State Fault Refusal :=
  if s.busy then
    match currentEntry s with
    | some e =>
      match decodeEntry s.cfg e with
      | .ok i => exec i s
      | .error _ => .refused .foreignFrame
    | none => .refused .emitNotEnabled
  else .next s

/-! ### The host's steps -/

/-- The first two lines of Accept (R35): `REQ` and `TXT` are latched; `TXT` takes the first `N` bytes of `TEXT` for `OP = RENDER` and is
empty otherwise (R18). The text of an illegal word is DEDUCED, safe (notes/assumptions/16.md). -/
def latchRequest (w : BitVec 64) (text : List Byte) (s : State) : State :=
  { s with req := w, txt := if reqOp w = 0x6 then text.take (reqN w).toNat else [] }

/-- Accept (R35) of a request word while `BUSY = 0`: latch, then `ILLEGAL_REQUEST` if the word is not `Legal` (R75, R117), otherwise the
request it decodes to. -/
def acceptRequest (w : BitVec 64) (text : List Byte) (s : State) : Host.Outcome State Fault Refusal :=
  match decode s.cfg (.request w) with
  | .ok i => exec i (latchRequest w text s)
  | .error _ => .next (takeException .illegalRequest (latchRequest w text s))

/-- A host read of `STATUS_WORD`, at any time (R29). -/
def readStatusWord (s : State) : Host.Outcome State Fault Refusal :=
  .next { s with lastRead := some (.statusWord (statusWord s)) }

/-- A host read of `LOUT`. While `LOUT_VALID = 0` the spec itself prescribes the fault: it "has no defined value; a model faults on it
(`UNWRITTEN_OUTPUT`, 60_exceptions.md rule R120)" (10_state.md R27). Of the treatments of 93_implementation_defined.md, which has `any value`
among them, I6 takes `fault`. -/
def readLoutReg (s : State) : Host.Outcome State Fault Refusal :=
  if s.loutValid then .next { s with lastRead := some (.lout s.lout) } else .fault .unwrittenLout

/-- A host read of `XOUT`. While `XOUT_VALID = 0` the spec itself prescribes the fault: it "faults in a model, as in rule R27"
(10_state.md R28; 60_exceptions.md R120; 93_implementation_defined.md I6). -/
def readXoutReg (s : State) : Host.Outcome State Fault Refusal :=
  if s.xoutValid then .next { s with lastRead := some (.xout s.xout) } else .fault .unwrittenXout

/-- Reset (R132, R133): GRL and the display at their reset values, the configuration kept (R40). The environment is no state of GRL and
goes on: the host's later events, the transport's replies, and the model's own two fields. DEDUCED, safe (notes/assumptions/7.md). -/
def hostReset (link : Link) (s : State) : State :=
  { State.resetWith s.cfg link with
      inbox := s.inbox, replies := s.replies, draws := s.draws, lastRead := s.lastRead }

/-- One step: the host's next event if it has one, the block's step otherwise. A request presented while `BUSY = 1` stays presented and
the block goes on (R37). The order of host and block is data: `wait` gives the block a step. DESIGN CHOICE, safe
(notes/assumptions/6.md). -/
def takeStep (s : State) : Host.Outcome State Fault Refusal :=
  match s.inbox with
  | [] => blockStep s
  | .request w text :: rest => if s.busy then blockStep s else acceptRequest w text { s with inbox := rest }
  | .readStatus :: rest => readStatusWord { s with inbox := rest }
  | .readLout :: rest => readLoutReg { s with inbox := rest }
  | .readXout :: rest => readXoutReg { s with inbox := rest }
  | .wait :: rest => blockStep { s with inbox := rest }
  | .reset link :: rest => .next (hostReset link { s with inbox := rest })

/-! ### Placing an instruction -/

/-- The plan entry that holds a frame or a cursor command byte, encoded with the state's own configuration; `none` for a request, which
comes on `REQ_WORD`. A raw frame stands with the tag of `SEND` (R95, R96), a cursor byte with the tag of its cursor setting (R103). -/
def placedEntry (cfg : Config) : Instr → Option PlanEntry
  | .lookup _ => none
  | .cmd _ => none
  | .data _ => none
  | .init => none
  | .setcur _ _ => none
  | .clear => none
  | .render _ _ _ => none
  | .center _ => none
  | .frameCmd b => some ⟨cmdFrame b, .rawCmd⟩
  | .frameData b => some ⟨datFrame b, .data⟩
  | .ctlPageSelect page => some ⟨cmdFrame (cfg.pageBase + page), .addr .pageSelect 0 page⟩
  | .ctlColLo nibble => some ⟨cmdFrame (cfg.colLoBase + nibble), .addr .colLow nibble 0⟩
  | .ctlColHi nibble => some ⟨cmdFrame (cfg.colHiBase + nibble), .addr .colHigh (nibble <<< 4) 0⟩

/-- Present a request word, with `N` bytes of text, to an idle block. -/
def presentRequest (w : BitVec 64) (s : State) : State :=
  { s with busy := false, inbox := .request w (List.replicate (reqN w).toNat 0) :: s.inbox }

/-- Stand the sequencer at a one-frame plan, let the block take the next step, and give the transport an answer if none is given. -/
def presentEntry (e : PlanEntry) (s : State) : State :=
  { s with busy := true, plan := [e], k := 0, inbox := .wait :: s.inbox,
           replies := match s.replies with
                      | [] => [.ok]
                      | r :: rest => r :: rest }

/-- The state whose very next step runs the table's word (notes/assumptions/9.md, notes/assumptions/10.md). -/
def placeTableWord (s : State) (nbits w : Nat) : State :=
  match (decodeTableWord nbits w).bind (placedEntry s.cfg) with
  | some e => presentEntry e s
  | none => presentRequest (BitVec.ofNat 64 w) s

end Sys2Proof.Machine
end

