-- ==== Sys2Proof/Machine/Step.lean ====
section
/-! DEFINITION. One step of the machine (00_scope.md R6), and the placing of one instruction to be run next. -/

namespace Sys2Proof.Machine

/-- One step of GRL with its environment: accepting a request, emitting one frame, or a host read or reset. -/
def step (s : State) : Host.Outcome State Fault Refusal := takeStep s

/-- The state in which the table's word `w` stands where the next step finds it: a request on `REQ_WORD`, a frame or cursor command
byte as the plan's current frame. -/
def State.withFetchWord (s : State) (nbits w : Nat) : State := placeTableWord s nbits w

end Sys2Proof.Machine
end

