-- ==== Sys2Proof/Machine/Assembler.lean ====
section
/-! DEFINITION. The host's assembly (30_encoding.md section 4): the lines of a host program, the check that every operand fits its
field, the request words of R86, the pseudo-operation REFRESH (R87), and the reading of a line of text (R85). -/

namespace Sys2Proof.Machine

/-! ### Lines and words (R86, R87) -/

/-- A line of a host program (R86, R87), its numbers as written. -/
inductive AsmLine where
  | lookup (c : Int)
  | send (b d : Int)
  | cmd (b : Int)
  | data (b : Int)
  | init
  | setcur (col page : Int)
  | clear
  | render (x page : Int) (text : List Byte)
  | center (n : Int)
  | refresh (text : List Byte)
deriving DecidableEq, Repr

/-- Why a line does not assemble. -/
inductive AsmError where
  | byteOutOfRange (v : Int)
  | bitOutOfRange (v : Int)
  | columnOutOfRange (v : Int)
  | textTooLong (n : Nat)
  | unknownMnemonic
  | wrongOperands
  | badNumber
  | badText
deriving DecidableEq, Repr

/-- An operand of a byte field: 0 to 255 (R86). -/
def asmByte (v : Int) : Except AsmError Byte :=
  if 0 ≤ v ∧ v ≤ 255 then .ok (BitVec.ofInt 8 v) else .error (.byteOutOfRange v)

/-- The start column: a signed 32-bit number (R86). -/
def asmColumn (v : Int) : Except AsmError (BitVec 32) :=
  if -2147483648 ≤ v ∧ v ≤ 2147483647 then .ok (BitVec.ofInt 32 v) else .error (.columnOutOfRange v)

/-- The length of a text: at most 255 characters (R86). -/
def asmLength (text : List Byte) : Except AsmError Byte :=
  if text.length ≤ 255 then .ok (BitVec.ofNat 8 text.length) else .error (.textTooLong text.length)

/-- The request of an instruction, as the host presents it with `text` on `TEXT`. -/
def requestOf (i : Instr) (text : List Byte) : Except AsmError HostEvent :=
  match encode Config.reference i with
  | .request w => .ok (.request w text)
  | .frame _ => .error .unknownMnemonic
  | .cursorByte _ _ => .error .unknownMnemonic

/-- One request of a line, its operands checked (R86). -/
def asmRender (x page : Int) (text : List Byte) : Except AsmError HostEvent := do
  requestOf (.render (← asmColumn x) (← asmByte page) (← asmLength text)) text

/-- The requests a line assembles to: one, or the three of REFRESH (R86, R87). The assembler "does not check the contract ranges". -/
def assemble : AsmLine → Except AsmError (List HostEvent)
  | .lookup c => do .ok [← requestOf (.lookup (← asmByte c)) []]
  | .send b d => do
    if d = 0 then .ok [← requestOf (.cmd (← asmByte b)) []]
    else if d = 1 then .ok [← requestOf (.data (← asmByte b)) []]
    else .error (.bitOutOfRange d)
  | .cmd b => do .ok [← requestOf (.cmd (← asmByte b)) []]
  | .data b => do .ok [← requestOf (.data (← asmByte b)) []]
  | .init => do .ok [← requestOf .init []]
  | .setcur col page => do .ok [← requestOf (.setcur (← asmByte col) (← asmByte page)) []]
  | .clear => do .ok [← requestOf .clear []]
  | .render x page text => do .ok [← asmRender x page text]
  | .center n => do .ok [← requestOf (.center (← asmByte n)) []]
  | .refresh text => do
    .ok [← requestOf (.center (← asmLength text)) [], ← requestOf .clear [],
         ← asmRender (64 - 5 * (text.length : Int)) (renderPage.toNat : Int) text]

/-! ### Reading a line of text (R85)

What R85 leaves open of the text's form is a DESIGN CHOICE, safe (notes/assumptions/17.md). -/

/-- A comma-separated operand as written. -/
inductive AsmOperand where
  | number (v : Int)
  | text (t : List Byte)
deriving DecidableEq, Repr

def isBlankChar (c : Char) : Bool := c == ' ' || c == '\t'

/-- The part before a comment: `;` starts one, except in a quoted character or inside a text (`inText`). -/
def stripComment (inText : Bool) : List Char → List Char
  | [] => []
  | '\'' :: c :: '\'' :: rest =>
    if inText then '\'' :: stripComment inText (c :: '\'' :: rest) else '\'' :: c :: '\'' :: stripComment inText rest
  | c :: rest =>
    if inText then c :: stripComment (c != '"') rest
    else if c = ';' then []
    else c :: stripComment (c == '"') rest

def dropBlanks (cs : List Char) : List Char := cs.dropWhile isBlankChar

def trimBlanks (cs : List Char) : List Char := (dropBlanks (dropBlanks cs).reverse).reverse

/-- Split at commas, except in a quoted character or inside a text. `acc` holds the current operand, reversed. -/
def splitOperands (inText : Bool) (acc : List Char) : List Char → List (List Char)
  | [] => [acc.reverse]
  | '\'' :: c :: '\'' :: rest =>
    if inText then splitOperands inText ('\'' :: acc) (c :: '\'' :: rest)
    else splitOperands inText ('\'' :: c :: '\'' :: acc) rest
  | c :: rest =>
    if inText then splitOperands (c != '"') (c :: acc) rest
    else if c = ',' then acc.reverse :: splitOperands false [] rest
    else splitOperands (c == '"') (c :: acc) rest

def digitValue (base : Nat) (c : Char) : Option Nat :=
  let v := if 48 ≤ c.toNat ∧ c.toNat ≤ 57 then some (c.toNat - 48)
           else if 97 ≤ c.toNat ∧ c.toNat ≤ 102 then some (c.toNat - 87)
           else if 65 ≤ c.toNat ∧ c.toNat ≤ 70 then some (c.toNat - 55)
           else none
  v.filter (· < base)

def digitsValue (base : Nat) (acc : Nat) : List Char → Option Nat
  | [] => some acc
  | c :: rest =>
    match digitValue base c with
    | some d => digitsValue base (acc * base + d) rest
    | none => none

/-- A number: decimal, or hexadecimal with `0x`. -/
def naturalValue : List Char → Option Nat
  | [] => none
  | '0' :: 'x' :: c :: rest => digitsValue 16 0 (c :: rest)
  | c :: rest => digitsValue 10 0 (c :: rest)

/-- The ASCII code of a character (R85). -/
def asciiCode (c : Char) : Option Byte := if c.toNat ≤ 127 then some (BitVec.ofNat 8 c.toNat) else none

/-- The codes of a text's characters, up to its closing quote, which must end the operand. -/
def textCodes : List Char → Option (List Byte)
  | [] => none
  | ['"'] => some []
  | c :: rest =>
    if c = '"' then none
    else match asciiCode c, textCodes rest with
      | some b, some bs => some (b :: bs)
      | _, _ => none

/-- An operand: a number, a quoted character, or a quoted text (R85). A quoted character is read as its code, and so is taken for every
numeric operand and not for the character operand of LOOKUP alone: DESIGN CHOICE, safe (notes/assumptions/17.md). -/
def readOperand : List Char → Except AsmError AsmOperand
  | '-' :: rest =>
    match naturalValue rest with
    | some v => .ok (.number (-(v : Int)))
    | none => .error .badNumber
  | ['\'', c, '\''] =>
    match asciiCode c with
    | some b => .ok (.number (b.toNat : Int))
    | none => .error .badText
  | '"' :: rest =>
    match textCodes rest with
    | some bs => .ok (.text bs)
    | none => .error .badText
  | cs =>
    match naturalValue cs with
    | some v => .ok (.number (v : Int))
    | none => .error .badNumber

def readOperands : List (List Char) → Except AsmError (List AsmOperand)
  | [] => .ok []
  | cs :: rest => do .ok ((← readOperand (trimBlanks cs)) :: (← readOperands rest))

/-- The line of a mnemonic with its operands (R86, R87). -/
def lineOf (mnemonic : List Char) (ops : List AsmOperand) : Except AsmError AsmLine :=
  if mnemonic = ['L', 'O', 'O', 'K', 'U', 'P'] then
    match ops with
    | [.number c] => .ok (.lookup c)
    | _ => .error .wrongOperands
  else if mnemonic = ['S', 'E', 'N', 'D'] then
    match ops with
    | [.number b, .number d] => .ok (.send b d)
    | _ => .error .wrongOperands
  else if mnemonic = ['C', 'M', 'D'] then
    match ops with
    | [.number b] => .ok (.cmd b)
    | _ => .error .wrongOperands
  else if mnemonic = ['D', 'A', 'T', 'A'] then
    match ops with
    | [.number b] => .ok (.data b)
    | _ => .error .wrongOperands
  else if mnemonic = ['I', 'N', 'I', 'T'] then
    match ops with
    | [] => .ok .init
    | _ => .error .wrongOperands
  else if mnemonic = ['S', 'E', 'T', 'C', 'U', 'R'] then
    match ops with
    | [.number col, .number page] => .ok (.setcur col page)
    | _ => .error .wrongOperands
  else if mnemonic = ['C', 'L', 'E', 'A', 'R'] then
    match ops with
    | [] => .ok .clear
    | _ => .error .wrongOperands
  else if mnemonic = ['R', 'E', 'N', 'D', 'E', 'R'] then
    match ops with
    | [.number x, .number page, .text t] => .ok (.render x page t)
    | _ => .error .wrongOperands
  else if mnemonic = ['C', 'E', 'N', 'T', 'E', 'R'] then
    match ops with
    | [.number n] => .ok (.center n)
    | _ => .error .wrongOperands
  else if mnemonic = ['R', 'E', 'F', 'R', 'E', 'S', 'H'] then
    match ops with
    | [.text t] => .ok (.refresh t)
    | _ => .error .wrongOperands
  else .error .unknownMnemonic

/-- A line of text: a mnemonic, then its operands separated by commas; nothing for an empty line or a comment (R85). -/
def readLine (line : List Char) : Except AsmError (Option AsmLine) :=
  let body := trimBlanks (stripComment false line)
  if body = [] then .ok none
  else
    let mnemonic := body.takeWhile (fun c => !isBlankChar c)
    let rest := trimBlanks (body.drop mnemonic.length)
    if rest = [] then (lineOf mnemonic []).map some
    else do (lineOf mnemonic (← readOperands (splitOperands false [] rest))).map some

/-- A host program: the requests of its lines, in order (95_test_vectors.md section 3). -/
def assembleProgram : List (List Char) → Except AsmError (List HostEvent)
  | [] => .ok []
  | line :: rest => do
    match ← readLine line with
    | none => assembleProgram rest
    | some l => do .ok ((← assemble l) ++ (← assembleProgram rest))

end Sys2Proof.Machine
end

