-- ==== Sys2Proof/Safety.lean ====
section
/-! DEFINITION. What a good state is, and the assumptions on the environment that claims are stated under. -/

namespace Sys2Proof.Machine

/-! ### The invariant -/

/-- A frame carries the prefix of its role (30_encoding.md R77, 20_memory.md R63): `0x40` for data, `0x00` for every other role. -/
def prefixOf : Tag → Byte
  | .init _ => prefixCmd
  | .addr _ _ _ => prefixCmd
  | .data => prefixData
  | .rawCmd => prefixCmd

/-- The command byte of frame `slot` of a cursor setting (43_addressing.md R103). -/
def cursorCommand (cfg : Config) (slot : CursorSlot) (col page : Byte) : Byte :=
  match slot with
  | .pageSelect => pageSelectCommand cfg page
  | .colLow => colLowCommand cfg col
  | .colHigh => colHighCommand cfg col

/-- A frame and a tag that GRL pairs: the prefix of the role, and for a cursor frame its command byte. -/
def framedAs (cfg : Config) (f : Frame) : Tag → Prop
  | .init _ => f.control = prefixCmd
  | .addr slot col page => f = cmdFrame (cursorCommand cfg slot col page)
  | .data => f.control = prefixData
  | .rawCmd => f.control = prefixCmd

/-- The invariant of every run from reset. -/
structure State.Inv (s : State) : Prop where
  /-- The configuration meets 10_state.md R32, R33 and R25. -/
  cfg_wf : s.cfg.Wf
  /-- A plan has at most 65535 frames, so that `K` never wraps (R25, R26). -/
  plan_le : s.plan.length ≤ 65535
  /-- `K` never exceeds `len(PLAN)` (R26). -/
  k_le : s.k.toNat ≤ s.plan.length
  /-- While `BUSY = 1` there are frames left to emit (R20). -/
  busy_left : s.busy = true → s.k.toNat < s.plan.length
  /-- Every frame of the plan is one GRL makes (R93, R103). -/
  plan_framed : ∀ e ∈ s.plan, framedAs s.cfg e.frame e.tag
  /-- Every frame sent is one GRL makes (R93, R103). -/
  hist_framed : ∀ e ∈ s.hist, framedAs s.cfg e.frame e.tag
  /-- `TXT` holds at most 255 characters (R18). -/
  txt_le : s.txt.length ≤ 255
  /-- While `FATAL = 1` nothing is in progress and nothing was sent (R21, R116). -/
  fatal_silent : s.fatal = true → s.busy = false ∧ s.hist = []
  /-- `DISP` is computed from `HIST` (R34). -/
  disp_hist : s.disp = Disp.ofHist s.hist
  /-- The display memory keeps its canonical form. -/
  ram_wf : s.disp.ram.wf

/-! ### The environment's assumptions -/

/-- `TRANSPORT_ANSWERS` (10_state.md R38) for the next write. -/
def TransportAnswers (s : State) : Prop := nextReply s ≠ .never

/-- The requests that write to the transport (R35, `Emits`). -/
def emitsFrames : Instr → Bool
  | .lookup _ => false
  | .cmd _ => true
  | .data _ => true
  | .init => true
  | .setcur _ _ => true
  | .clear => true
  | .render _ _ _ => true
  | .center _ => false
  | .frameCmd _ => false
  | .frameData _ => false
  | .ctlPageSelect _ => false
  | .ctlColLo _ => false
  | .ctlColHi _ => false

/-- The instructions that come as request words (30_encoding.md R73). -/
def isRequest : Instr → Bool
  | .lookup _ => true
  | .cmd _ => true
  | .data _ => true
  | .init => true
  | .setcur _ _ => true
  | .clear => true
  | .render _ _ _ => true
  | .center _ => true
  | .frameCmd _ => false
  | .frameData _ => false
  | .ctlPageSelect _ => false
  | .ctlColLo _ => false
  | .ctlColHi _ => false

/-- `CvFlags(REQ)` of R35: the contract flags of a request, 0 for the operations R104 and R109 do not name. -/
def contractFlags : Instr → Cv
  | .lookup _ => Cv.none
  | .cmd _ => Cv.none
  | .data _ => Cv.none
  | .init => Cv.none
  | .setcur col page => cvCursor col page
  | .clear => Cv.none
  | .render x page n => cvRender x page n
  | .center _ => Cv.none
  | .frameCmd _ => Cv.none
  | .frameData _ => Cv.none
  | .ctlPageSelect _ => Cv.none
  | .ctlColLo _ => Cv.none
  | .ctlColHi _ => Cv.none

/-- `Plan(REQ, TXT)` of R24. -/
def planOf (cfg : Config) (text : List Byte) : Instr → List PlanEntry
  | .lookup _ => []
  | .cmd b => [⟨cmdFrame b, .rawCmd⟩]
  | .data b => [⟨datFrame b, .data⟩]
  | .init => planInit cfg
  | .setcur col page => cursorFrames cfg col page
  | .clear => planClear cfg
  | .render x page n => planRender cfg x page (text.take n.toNat)
  | .center _ => []
  | .frameCmd _ => []
  | .frameData _ => []
  | .ctlPageSelect _ => []
  | .ctlColLo _ => []
  | .ctlColHi _ => []

/-- The request's text is on the latch (30_encoding.md R72): RENDER needs its `N` bytes, no other request any. -/
def textReady (s : State) : Instr → Prop
  | .lookup _ => True
  | .cmd _ => True
  | .data _ => True
  | .init => True
  | .setcur _ _ => True
  | .clear => True
  | .render _ _ n => n.toNat ≤ s.txt.length
  | .center _ => True
  | .frameCmd _ => True
  | .frameData _ => True
  | .ctlPageSelect _ => True
  | .ctlColLo _ => True
  | .ctlColHi _ => True

/-- The frames still to be emitted: `PLAN[K ..]`. -/
def restOfPlan (s : State) : List PlanEntry := s.plan.drop s.k.toNat

/-- The history that a list of frames leaves when each is answered `OK`. -/
def deliveredEntries (plan : List PlanEntry) : List HistEntry := plan.map (fun e => ⟨e.frame, .ok, e.tag⟩)

end Sys2Proof.Machine
end

