-- ==== Sys2Proof/Certificates/Slice0/Obligations.lean ====
section
/-! DEFINITION. The statements for the provers. Each docstring names the rule of spec/ that the statement formalises. -/

open Sys2Proof Sys2Proof.Machine

/-! ### Glyph ROM -/

/-- 40_glyph_rom.md R88: the digits, ':', and the fallback to the glyph of '0'. -/
def Obligations.GlyphIndexFollowsAlphabet : Prop :=
  ∀ c : Byte,
    (0x30 ≤ c.toNat ∧ c.toNat ≤ 0x39 → (glyphIndex c).val = c.toNat - 0x30) ∧
    (c.toNat = 0x3A → (glyphIndex c).val = 10) ∧
    (c.toNat < 0x30 ∨ 0x3A < c.toNat → glyphIndex c = glyphIndex 0x30)

/-- R89: a glyph is its ten ROM bytes, in order. -/
def Obligations.GlyphIsTenRomBytesInOrder : Prop :=
  ∀ (cfg : Config) (c : Byte),
    (glyphOf cfg c).toList.length = 10 ∧
    (glyphOf cfg c).toList = (List.finRange 10).map (fun j => glyphRead cfg (glyphIndex c) j)

/-- R91: LOOKUP completes at Accept, in every mode of the transport, and changes only `LOUT`, `LOUT_VALID`, `STATUS`, `PLAN`, `K`. -/
def Obligations.LookupWritesGlyphAndCompletes : Prop :=
  ∀ (c : Byte) (s : State), s.busy = false →
    exec (.lookup c) s =
      .next { s with lout := glyphOf s.cfg c, loutValid := true, plan := [], k := 0, status := .ok }

/-- 60_exceptions.md R119: an unsupported character raises nothing and acts as '0', in LOOKUP and in a rendered text. -/
def Obligations.UnsupportedCharacterFallsBack : Prop :=
  ∀ (c : Byte) (s : State), c.toNat < 0x30 ∨ 0x3A < c.toNat → s.busy = false →
    (∃ t, exec (.lookup c) s = .next t ∧ t.status = .ok ∧ t.lout = glyphOf s.cfg 0x30) ∧
    (∀ (x : BitVec 32) (page : Byte) (before after : List Byte),
      planRender s.cfg x page (before ++ c :: after) = planRender s.cfg x page (before ++ 0x30 :: after))

/-! ### Encoding -/

/-- 41_protocol_encoder.md R92. -/
def Obligations.EncoderPrefixesTheByte : Prop :=
  ∀ b : Byte,
    (∀ isData : Bool, encodeFrame b isData = ⟨if isData then 0x40 else 0x00, b⟩) ∧
    cmdFrame b = ⟨0x00, b⟩ ∧ datFrame b = ⟨0x40, b⟩

/-- 30_encoding.md R80, R81: the two column command bytes. -/
def Obligations.ColumnCommandBytes : Prop :=
  ∀ (cfg : Config) (c : Byte),
    (colLowCommand cfg c).toNat = (cfg.colLoBase.toNat + c.toNat % 16) % 256 ∧
    (colHighCommand cfg c).toNat = (cfg.colHiBase.toNat + c.toNat / 16) % 256 ∧
    (c.toNat ≤ 127 → ((c >>> 4) &&& 0x0F).toNat ≤ 7) ∧
    (128 ≤ c.toNat → 8 ≤ ((c >>> 4) &&& 0x0F).toNat ∧ ((c >>> 4) &&& 0x0F).toNat ≤ 15 ∧ ∀ page : Byte, (cvCursor c page).col = true)

/-- R79: the page-select byte, the same formula above page 3, where the request is a contract violation. -/
def Obligations.PageSelectByte : Prop :=
  ∀ (cfg : Config) (page : Byte),
    (pageSelectCommand cfg page).toNat = (cfg.pageBase.toNat + page.toNat) % 256 ∧
    (3 < page.toNat → ∀ col : Byte, (cvCursor col page).page = true)

/-- R82: under the constraint of 10_state.md R33 the column is recovered from the last two frames of a cursor setting. -/
def Obligations.ColumnIsRecoveredFromNibbles : Prop :=
  ∀ (cfg : Config) (col page : Byte) (lo hi : PlanEntry),
    cfg.colLoBase &&& 0x0F = 0 → cfg.colHiBase &&& 0x0F = 0 →
    (cursorFrames cfg col page)[1]? = some lo → (cursorFrames cfg col page)[2]? = some hi →
    col = (lo.frame.payload &&& 0x0F) ||| ((hi.frame.payload &&& 0x0F) <<< 4)

/-- R74: `Legal` by its three conditions, as a mask test on `w[7:0]`, and as what decodes. -/
def Obligations.LegalWordsAreTheEightLowBytes : Prop :=
  ∀ w : BitVec 64,
    (legalRequest w = true ↔
      (1 ≤ (reqOp w).toNat ∧ (reqOp w).toNat ≤ 7) ∧ reqRsv w = 0 ∧ (reqD w = 0 ∨ reqOp w = 0x2)) ∧
    (legalRequest w = true ↔ w.extractLsb' 0 8 ∈ ([0x01, 0x02, 0x12, 0x03, 0x04, 0x05, 0x06, 0x07] : List (BitVec 8))) ∧
    (legalRequest w = true ↔ ∃ i, decodeRequest w = .ok i)

/-- The encodings of spec/opcode_table.json, R70, R78 and R79 to R81: words written out bit by bit (95_test_vectors.md). The three cursor
command bytes are under the default bases, which the model takes from 93_implementation_defined.md I18 (notes/assumptions/2.md). -/
def Obligations.WrittenOutWordsDecode : Prop :=
  decodeRequest 0x3701 = .ok (.lookup 0x37) ∧
  decodeRequest 0xAE02 = .ok (.cmd 0xAE) ∧
  decodeRequest 0xFF12 = .ok (.data 0xFF) ∧
  decodeRequest 0x03 = .ok .init ∧
  decodeRequest 0x180104 = .ok (.setcur 24 1) ∧
  decodeRequest 0xFFFFFFFFFFFFFF05 = .ok .clear ∧
  decodeRequest 0x0000001808000106 = .ok (.render 24 1 8) ∧
  decodeRequest 0x080007 = .ok (.center 8) ∧
  decodeFrame 0x00AE = .ok (.frameCmd 0xAE) ∧
  decodeFrame 0x40FF = .ok (.frameData 0xFF) ∧
  decodeCursorByte Config.reference .pageSelect 0xB3 = .ok (.ctlPageSelect 3) ∧
  decodeCursorByte Config.reference .colLow 0x08 = .ok (.ctlColLo 8) ∧
  decodeCursorByte Config.reference .colHigh 0x17 = .ok (.ctlColHi 7)

/-- 30_encoding.md sections 2 and 3: decoding what the encoder gives for a well-formed instruction gives it back, every operand at
every value, under every configuration. -/
def Obligations.DecodeEncodeRoundTrip : Prop :=
  ∀ (cfg : Config) (i : Instr), i.wf = true → decode cfg (encode cfg i) = .ok i

/-- R71: a legal request word means what its own fields say, whatever stands in the fields its operation ignores. -/
def Obligations.IgnoredFieldsChangeNothing : Prop :=
  ∀ w v : BitVec 64, w.extractLsb' 0 8 = v.extractLsb' 0 8 →
    (reqOp w = 0x1 ∨ reqOp w = 0x2 → reqA w = reqA v → decodeRequest w = decodeRequest v) ∧
    (reqOp w = 0x3 ∨ reqOp w = 0x5 → decodeRequest w = decodeRequest v) ∧
    (reqOp w = 0x4 → reqA w = reqA v → reqB w = reqB v → decodeRequest w = decodeRequest v) ∧
    (reqOp w = 0x6 → reqA w = reqA v → reqN w = reqN v → reqX w = reqX v → decodeRequest w = decodeRequest v) ∧
    (reqOp w = 0x7 → reqB w = reqB v → decodeRequest w = decodeRequest v)

/-- R86: the request word and text of each mnemonic, and the operand checks. -/
def Obligations.AssemblerWords : Prop :=
  (∀ c : Byte, assemble (.lookup c.toNat) = .ok [.request ((c.setWidth 64 <<< 8) ||| 0x01) []]) ∧
  (∀ (b : Byte) (d : BitVec 1),
    assemble (.send b.toNat d.toNat) = .ok [.request ((b.setWidth 64 <<< 8) ||| (d.setWidth 64 <<< 4) ||| 0x02) []]) ∧
  (∀ b : Byte, assemble (.cmd b.toNat) = .ok [.request ((b.setWidth 64 <<< 8) ||| 0x02) []]) ∧
  (∀ b : Byte, assemble (.data b.toNat) = .ok [.request ((b.setWidth 64 <<< 8) ||| 0x12) []]) ∧
  assemble .init = .ok [.request 0x03 []] ∧
  (∀ col page : Byte,
    assemble (.setcur col.toNat page.toNat) =
      .ok [.request ((col.setWidth 64 <<< 16) ||| (page.setWidth 64 <<< 8) ||| 0x04) []]) ∧
  assemble .clear = .ok [.request 0x05 []] ∧
  (∀ (x : BitVec 32) (page : Byte) (t : List Byte), t.length ≤ 255 →
    assemble (.render x.toInt page.toNat t) =
      .ok [.request ((x.setWidth 64 <<< 32) ||| (BitVec.ofNat 64 t.length <<< 24) ||| (page.setWidth 64 <<< 8) ||| 0x06) t]) ∧
  (∀ n : Byte, assemble (.center n.toNat) = .ok [.request ((n.setWidth 64 <<< 16) ||| 0x07) []]) ∧
  (∀ v w : Int, v < 0 ∨ 255 < v → ∀ t : List Byte,
    ((∃ e, assemble (.lookup v) = .error e) ∧ (∃ e, assemble (.cmd v) = .error e) ∧ (∃ e, assemble (.data v) = .error e) ∧
     (∃ e, assemble (.send v 0) = .error e) ∧ (∃ e, assemble (.send v 1) = .error e) ∧
     (∃ e, assemble (.setcur v w) = .error e) ∧ (∃ e, assemble (.setcur w v) = .error e) ∧
     (∃ e, assemble (.render w v t) = .error e) ∧ (∃ e, assemble (.center v) = .error e))) ∧
  (∀ b d : Int, d ≠ 0 → d ≠ 1 → ∃ e, assemble (.send b d) = .error e) ∧
  (∀ (x page : Int) (t : List Byte), x < -2147483648 ∨ 2147483647 < x ∨ 255 < t.length →
    ∃ e, assemble (.render x page t) = .error e)

/-- R87: REFRESH is CENTER, CLEAR and RENDER on page 1 at 64 − 5n, which is the `XOUT` that its CENTER leaves. -/
def Obligations.RefreshRendersAtTheCenteredColumn : Prop :=
  ∀ (text : List Byte) (s : State), text.length ≤ 255 → s.busy = false →
    ∃ x : BitVec 32,
      assemble (.refresh text) =
        .ok [.request (requestWord 0x07 0 (BitVec.ofNat 8 text.length) 0 0) [], .request 0x05 [],
             .request (requestWord 0x06 1 0 (BitVec.ofNat 8 text.length) x) text] ∧
      x.toInt = 64 - 5 * (text.length : Int) ∧
      ∃ t, exec (.center (BitVec.ofNat 8 text.length)) s = .next t ∧ t.xout = x

/-! ### Address generator -/

/-- 43_addressing.md R103: page select, then column low, then column high. -/
def Obligations.CursorFramesInFixedOrder : Prop :=
  ∀ (cfg : Config) (col page : Byte),
    cursorFrames cfg col page =
      [⟨⟨0x00, cfg.pageBase + page⟩, .addr .pageSelect col page⟩,
       ⟨⟨0x00, cfg.colLoBase + (col &&& 0x0F)⟩, .addr .colLow col page⟩,
       ⟨⟨0x00, cfg.colHiBase + ((col >>> 4) &&& 0x0F)⟩, .addr .colHigh col page⟩]

/-- R106 and R104: SETCUR accumulates the contract flags, sends its three frames whatever the operands, and changes nothing else. -/
def Obligations.SetcurPlansItsThreeFrames : Prop :=
  ∀ (col page : Byte) (s : State), s.busy = false → s.fatal = false →
    exec (.setcur col page) s =
      .next { s with
        cv := ⟨s.cv.col || decide (127 < col.toNat), s.cv.page || decide (3 < page.toNat), s.cv.wide⟩,
        plan := cursorFrames s.cfg col page, k := 0, busy := true }

/-! ### Encoder and initializer requests -/

/-- R95, R96: CMD and DATA start a plan of one frame, any byte unchanged, and change nothing else. -/
def Obligations.CmdAndDataPlanOneFrame : Prop :=
  ∀ (b : Byte) (s : State), s.busy = false → s.fatal = false →
    exec (.cmd b) s = .next { s with plan := [⟨⟨0x00, b⟩, .rawCmd⟩], k := 0, busy := true } ∧
    exec (.data b) s = .next { s with plan := [⟨⟨0x40, b⟩, .data⟩], k := 0, busy := true }

/-- 42_controller_init.md R101, R98: INIT plans every byte of every item as its own command frame, in order, the last one tagged; it
changes nothing else. -/
def Obligations.InitPlansEveryListByte : Prop :=
  ∀ s : State, s.busy = false → s.fatal = false → s.cfg.Wf →
    ∃ plan : List PlanEntry,
      exec .init s = .next { s with plan := plan, k := 0, busy := true } ∧
      plan.length = s.cfg.initSeq.toList.flatten.length ∧ 16 ≤ plan.length ∧
      ∀ (k : Nat) (b : Byte), s.cfg.initSeq.toList.flatten[k]? = some b →
        plan[k]? = some ⟨⟨0x00, b⟩, .init (decide (k + 1 = plan.length))⟩

/-! ### Renderer -/

/-- 44_frame_renderer.md R107: the 524 frames of CLEAR by plan index; it changes nothing else. -/
def Obligations.ClearPlansFourZeroedPages : Prop :=
  ∀ s : State, s.busy = false → s.fatal = false →
    ∃ plan : List PlanEntry,
      exec .clear s = .next { s with plan := plan, k := 0, busy := true } ∧
      plan.length = 524 ∧
      ∀ p : Nat, p ≤ 3 →
        plan[131 * p]? = some ⟨⟨0x00, s.cfg.pageBase + BitVec.ofNat 8 p⟩, .addr .pageSelect 0 (BitVec.ofNat 8 p)⟩ ∧
        plan[131 * p + 1]? = some ⟨⟨0x00, s.cfg.colLoBase⟩, .addr .colLow 0 (BitVec.ofNat 8 p)⟩ ∧
        plan[131 * p + 2]? = some ⟨⟨0x00, s.cfg.colHiBase⟩, .addr .colHigh 0 (BitVec.ofNat 8 p)⟩ ∧
        ∀ i : Nat, i ≤ 127 → plan[131 * p + 3 + i]? = some ⟨⟨0x40, 0x00⟩, .data⟩

/-- R108: the glyph stream is 10·n bytes, the glyphs in character order and each glyph's bytes in order. -/
def Obligations.GlyphStreamConcatenatesGlyphs : Prop :=
  ∀ (cfg : Config) (t : List Byte),
    (glyphStream cfg t).length = 10 * t.length ∧
    ∀ (i : Nat) (c : Byte) (j : Fin 10), t[i]? = some c →
      (glyphStream cfg t)[10 * i + j.val]? = some (glyphRead cfg (glyphIndex c) j)

/-- R109: the contract check of a render; GRL still sends every frame. -/
def Obligations.RenderContractCheck : Prop :=
  ∀ (x : BitVec 32) (page n : Byte) (s : State), s.busy = false → s.fatal = false → n.toNat ≤ s.txt.length →
    ((cvRender x page n).col = true ↔ x.toInt < 0 ∨ 127 < x.toInt) ∧
    ((cvRender x page n).page = true ↔ 3 < page.toNat) ∧
    ((cvRender x page n).wide = true ↔ 128 < 10 * n.toNat) ∧
    ((cvRender x page n).wide = true ↔ 13 ≤ n.toNat) ∧
    ∃ t, exec (.render x page n) s = .next t ∧ t.busy = true ∧
      t.cv.col = (s.cv.col || (cvRender x page n).col) ∧ t.cv.page = (s.cv.page || (cvRender x page n).page) ∧
      t.cv.wide = (s.cv.wide || (cvRender x page n).wide) ∧
      t.plan = planRender s.cfg x page (s.txt.take n.toNat)

/-- R110: the 3 + 10·n frames of RENDER by plan index; it accumulates the contract flags and changes nothing else. -/
def Obligations.RenderPlansItsGlyphs : Prop :=
  ∀ (x : BitVec 32) (page n : Byte) (s : State), s.busy = false → s.fatal = false → n.toNat ≤ s.txt.length →
    ∃ plan : List PlanEntry,
      exec (.render x page n) s = .next { s with plan := plan, k := 0, busy := true, cv := s.cv.or (cvRender x page n) } ∧
      plan.length = 3 + 10 * n.toNat ∧
      plan.take 3 = cursorFrames s.cfg (BitVec.ofInt 8 x.toInt) page ∧
      ∀ (i : Nat) (c : Byte) (j : Fin 10), i < n.toNat → s.txt[i]? = some c →
        plan[3 + 10 * i + j.val]? = some ⟨⟨0x40, glyphRead s.cfg (glyphIndex c) j⟩, .data⟩

/-- R111: the frames depend only on `x[7:0]`, `page`, `n` and the text: two renders that agree in them, from any two states of one
configuration, plan the same frames. -/
def Obligations.RenderDependsOnLowColumnByte : Prop :=
  ∀ (x y : BitVec 32) (page n : Byte) (s u : State), s.cfg = u.cfg → s.busy = false → s.fatal = false → u.busy = false → u.fatal = false →
    n.toNat ≤ s.txt.length → s.txt.take n.toNat = u.txt.take n.toNat → x.extractLsb' 0 8 = y.extractLsb' 0 8 →
    ∃ t v, exec (.render x page n) s = .next t ∧ exec (.render y page n) u = .next v ∧ t.plan = v.plan ∧ t.busy = true ∧ v.busy = true

/-- R112: CENTER completes at Accept, in every mode of the transport, and changes only `XOUT`, `XOUT_VALID`, `STATUS`, `PLAN`, `K`. -/
def Obligations.CenterWritesColumnAndCompletes : Prop :=
  ∀ (n : Byte) (s : State), s.busy = false →
    ∃ x : BitVec 32, x.toInt = 64 - 5 * (n.toNat : Int) ∧
      exec (.center n) s = .next { s with xout := x, xoutValid := true, plan := [], k := 0, status := .ok }

/-- R113: the centering division is exact, and negative exactly when n ≥ 13. -/
def Obligations.CenteringDivisionIsExact : Prop :=
  (∀ n : Int, (128 - 10 * n) % 2 = 0 ∧ Int.tdiv (128 - 10 * n) 2 = 64 - 5 * n ∧ (Int.tdiv (128 - 10 * n) 2 < 0 ↔ 13 ≤ n)) ∧
  ∀ n : Byte, centerColumn n = 64 - 5 * (n.toNat : Int)

/-- 10_state.md R25: the largest plan is a render of 255 characters, 2553 frames; a clear has 524; an initialize has as many as the
list has bytes. -/
def Obligations.PlanSizes : Prop :=
  ∀ (cfg : Config) (x : BitVec 32) (page : Byte) (text : List Byte),
    (planRender cfg x page text).length = 3 + 10 * text.length ∧
    (text.length ≤ 255 → (planRender cfg x page text).length ≤ 2553) ∧
    (planClear cfg).length = 524 ∧
    (planInit cfg).length = cfg.initSeq.toList.flatten.length ∧
    (∀ (i : Instr) (text' : List Byte), i ≠ .init → (planOf cfg text' i).length ≤ 2553)

/-! ### Accept: results and priority -/

/-- 60_exceptions.md R116 and 10_state.md R21: while `FATAL = 1` a request that would emit (CMD, DATA, INIT, SETCUR, CLEAR, RENDER)
completes with `OPEN_ERROR` and changes nothing else, LOOKUP and CENTER still work and complete with `OK`, and only reset with
`LINK = OPEN_OK` clears `FATAL`. -/
def Obligations.OpenErrorUntilReset : Prop :=
  (∀ (cfg : Config) (link : Link), (State.resetWith cfg link).fatal = true ↔ link = .openFail) ∧
  (∀ (i : Instr) (s : State), s.busy = false → s.fatal = true → textReady s i →
    (emitsFrames i = true → exec i s = .next { s with status := .openError }) ∧
    (∀ c : Byte, i = .lookup c → ∃ t, exec i s = .next t ∧ t.status = .ok ∧ t.lout = glyphOf s.cfg c ∧ t.loutValid = true) ∧
    (∀ n : Byte, i = .center n → ∃ t, exec i s = .next t ∧ t.status = .ok ∧ t.xout.toInt = 64 - 5 * (n.toNat : Int) ∧ t.xoutValid = true)) ∧
  (∀ s t : State, step s = .next t →
    (∃ (link : Link) (rest : List HostEvent), s.inbox = .reset link :: rest ∧ (t.fatal = true ↔ link = .openFail)) ∨
    t.fatal = s.fatal)

/-- R117: a word that is not `Legal` completes at Accept with `ILLEGAL_REQUEST`; besides the latches `REQ` and `TXT` nothing changes. For a
word of `OP` 0x6 with fewer than `N` text bytes, that the step exists and that `TXT` takes what there is are the model's reading
(notes/assumptions/16.md). -/
def Obligations.IllegalWordCompletesAtAccept : Prop :=
  ∀ (s : State) (w : BitVec 64) (text : List Byte) (rest : List HostEvent),
    s.inbox = .request w text :: rest → s.busy = false → legalRequest w = false →
    step s = .next { s with
      inbox := rest, req := w, txt := if reqOp w = 0x6 then text.take (reqN w).toNat else [], status := .illegalRequest }

/-- 30_encoding.md R72 with 60_exceptions.md R120: a RENDER request has a step only with `N` bytes of text, and the bytes after them
change nothing. That this is so while `FATAL = 1` too, before `OPEN_ERROR`, is the model's reading (notes/assumptions/16.md). -/
def Obligations.RenderNeedsItsText : Prop :=
  ∀ (s : State) (w : BitVec 64) (text extra : List Byte) (rest : List HostEvent),
    s.busy = false → legalRequest w = true → reqOp w = 0x6 →
    (text.length < (reqN w).toNat → step { s with inbox := .request w text :: rest } = .refused .malformedText) ∧
    ((reqN w).toNat ≤ text.length →
      step { s with inbox := .request w (text ++ extra) :: rest } = step { s with inbox := .request w text :: rest } ∧
      ∃ t, step { s with inbox := .request w text :: rest } = .next t ∧ t.txt = text.take (reqN w).toNat)

/-- A step on a presented request runs the decoded instruction: the event is taken, `REQ` and `TXT` are latched (10_state.md R35, R17,
R18), and the rest is `exec`. -/
def Obligations.StepRunsPresentedRequest : Prop :=
  ∀ (s : State) (w : BitVec 64) (text : List Byte) (rest : List HostEvent) (i : Instr),
    s.inbox = .request w text :: rest → s.busy = false → decode s.cfg (.request w) = .ok i →
    step s = exec i { s with
      inbox := rest, req := w, txt := if reqOp w = 0x6 then text.take (reqN w).toNat else [] }

/-- A step while `BUSY = 1` runs the instruction that `PLAN[K]` decodes to (R36, 30_encoding.md R84); a request presented meanwhile
stays where it is (R37). -/
def Obligations.StepEmitsDecodedEntry : Prop :=
  ∀ (s : State) (e : PlanEntry) (i : Instr),
    s.busy = true → s.plan[s.k.toNat]? = some e → decodeEntry s.cfg e = .ok i →
    (s.inbox = [] → step s = exec i s) ∧
    (∀ (w : BitVec 64) (text : List Byte) (rest : List HostEvent), s.inbox = .request w text :: rest → step s = exec i s) ∧
    (∀ rest : List HostEvent, s.inbox = .wait :: rest → step s = exec i { s with inbox := rest })

/-- 10_state.md R17, R18: outside reset, Accept writes `REQ` whole and `TXT` (the first `N` bytes for RENDER, empty for every other
request), and nothing else writes them. For an illegal word of `OP` 0x6 with fewer than `N` text bytes, that `TXT` takes what there is is the
model's reading (notes/assumptions/16.md). -/
def Obligations.LatchesAreWrittenOnlyAtAccept : Prop :=
  ∀ s t : State, step s = .next t → (∀ (link : Link) (rest : List HostEvent), s.inbox ≠ .reset link :: rest) →
    (∀ (w : BitVec 64) (text : List Byte) (rest : List HostEvent), s.inbox = .request w text :: rest → s.busy = false →
      t.req = w ∧ t.txt = (if reqOp w = 0x6 then text.take (reqN w).toNat else []) ∧ t.txt.length ≤ 255) ∧
    (s.busy = true ∨ (∀ (w : BitVec 64) (text : List Byte) (rest : List HostEvent), s.inbox ≠ .request w text :: rest) →
      t.req = s.req ∧ t.txt = s.txt)

/-- R37: a request presented while `BUSY = 1` is neither accepted nor dropped. The clause on `exec` is the model's choice for a state in
which no such step exists (notes/assumptions/11.md). -/
def Obligations.BusyHoldsTheRequest : Prop :=
  (∀ (s t : State) (w : BitVec 64) (text : List Byte) (rest : List HostEvent),
    s.busy = true → s.inbox = .request w text :: rest → step s = .next t →
    t.inbox = s.inbox ∧ t.req = s.req ∧ t.txt = s.txt ∧ t.plan = s.plan ∧ t.cv = s.cv) ∧
  (∀ (s : State) (i : Instr), s.busy = true → isRequest i = true → textReady s i → exec i s = .next s)

/-! ### Emit -/

/-- R36, the answer `OK`: the frame is recorded, the display receives it, `K` advances, the last frame completes the request. -/
def Obligations.DeliveredFrameAdvancesThePlan : Prop :=
  ∀ (s : State) (e : PlanEntry) (b : Byte),
    s.busy = true → s.plan[s.k.toNat]? = some e → nextReply s = .ok →
    ((e.frame = ⟨0x00, b⟩ → exec (.frameCmd b) s = .next { consumeReply s with
        hist := s.hist ++ [⟨e.frame, .ok, e.tag⟩], disp := dispStep s.disp ⟨e.frame, .ok, e.tag⟩, k := s.k + 1,
        status := if (s.k + 1).toNat = s.plan.length then .ok else s.status,
        busy := decide ((s.k + 1).toNat ≠ s.plan.length) }) ∧
     (e.frame = ⟨0x40, b⟩ → exec (.frameData b) s = .next { consumeReply s with
        hist := s.hist ++ [⟨e.frame, .ok, e.tag⟩], disp := dispStep s.disp ⟨e.frame, .ok, e.tag⟩, k := s.k + 1,
        status := if (s.k + 1).toNat = s.plan.length then .ok else s.status,
        busy := decide ((s.k + 1).toNat ≠ s.plan.length) }))

/-- R36 and R115 for one step, the answer `ERR`: the frame is recorded, `FAILIDX` takes `K`, the request ends. -/
def Obligations.FailedFrameEndsTheRequest : Prop :=
  ∀ (s : State) (e : PlanEntry) (b : Byte),
    s.busy = true → s.plan[s.k.toNat]? = some e → nextReply s = .err →
    ((e.frame = ⟨0x00, b⟩ → exec (.frameCmd b) s = .next { consumeReply s with
        hist := s.hist ++ [⟨e.frame, .err, e.tag⟩], disp := dispStep s.disp ⟨e.frame, .err, e.tag⟩,
        status := .writeError, failidx := s.k, busy := false }) ∧
     (e.frame = ⟨0x40, b⟩ → exec (.frameData b) s = .next { consumeReply s with
        hist := s.hist ++ [⟨e.frame, .err, e.tag⟩], disp := dispStep s.disp ⟨e.frame, .err, e.tag⟩,
        status := .writeError, failidx := s.k, busy := false }))

/-- R103, R36: each cursor command byte, at its frame of a cursor setting, is the emission of that command frame. That the opcode table's
cursor rows are these Emit steps is the model's reading (notes/assumptions/15.md); that a next state is answered while the transport is
silent, where R38 has no Emit step, is the model's choice: the state as it was (notes/assumptions/14.md). -/
def Obligations.CursorBytesAreTheirFrames : Prop :=
  ∀ (s : State) (f : Frame) (v col page : Byte) (slot : CursorSlot),
    s.busy = true → s.plan[s.k.toNat]? = some ⟨f, .addr slot col page⟩ →
    (slot = .pageSelect → f = ⟨0x00, s.cfg.pageBase + v⟩ →
      exec (.ctlPageSelect v) s = exec (.frameCmd (s.cfg.pageBase + v)) s ∧ ∃ t, exec (.ctlPageSelect v) s = .next t ∧
        (nextReply s = .ok → t.k = s.k + 1 ∧ t.hist = s.hist ++ [⟨f, .ok, .addr slot col page⟩])) ∧
    (slot = .colLow → f = ⟨0x00, s.cfg.colLoBase + v⟩ →
      exec (.ctlColLo v) s = exec (.frameCmd (s.cfg.colLoBase + v)) s ∧ ∃ t, exec (.ctlColLo v) s = .next t ∧
        (nextReply s = .ok → t.k = s.k + 1 ∧ t.hist = s.hist ++ [⟨f, .ok, .addr slot col page⟩])) ∧
    (slot = .colHigh → f = ⟨0x00, s.cfg.colHiBase + v⟩ →
      exec (.ctlColHi v) s = exec (.frameCmd (s.cfg.colHiBase + v)) s ∧ ∃ t, exec (.ctlColHi v) s = .next t ∧
        (nextReply s = .ok → t.k = s.k + 1 ∧ t.hist = s.hist ++ [⟨f, .ok, .addr slot col page⟩]))

/-- R36, "enabled only while `BUSY = 1`": a frame the sequencer does not stand at has no Emit step. -/
def Obligations.EmitOnlyWhenEnabled : Prop :=
  ∀ (s : State) (b : Byte),
    (s.busy = false →
      exec (.frameCmd b) s = .refused .emitNotEnabled ∧ exec (.frameData b) s = .refused .emitNotEnabled ∧
      exec (.ctlPageSelect b) s = .refused .emitNotEnabled ∧ exec (.ctlColLo b) s = .refused .emitNotEnabled ∧
      exec (.ctlColHi b) s = .refused .emitNotEnabled) ∧
    (∀ e : PlanEntry, s.busy = true → s.plan[s.k.toNat]? = some e →
      (e.frame ≠ ⟨0x00, b⟩ → exec (.frameCmd b) s = .refused .emitNotEnabled) ∧
      (e.frame ≠ ⟨0x40, b⟩ → exec (.frameData b) s = .refused .emitNotEnabled) ∧
      (e.frame ≠ ⟨0x00, s.cfg.pageBase + b⟩ → exec (.ctlPageSelect b) s = .refused .emitNotEnabled) ∧
      (e.frame ≠ ⟨0x00, s.cfg.colLoBase + b⟩ → exec (.ctlColLo b) s = .refused .emitNotEnabled) ∧
      (e.frame ≠ ⟨0x00, s.cfg.colHiBase + b⟩ → exec (.ctlColHi b) s = .refused .emitNotEnabled))

/-- R38: while the transport never answers, the Emit step never happens and `BUSY` stays 1 (that a step of the model exists then and
changes nothing is its own form of the hang: notes/assumptions/14.md); under `TRANSPORT_ANSWERS` for the next write, it is made. -/
def Obligations.SilentTransportHangsTheRequest : Prop :=
  ∀ s : State, s.Inv → s.busy = true → s.inbox = [] →
    (nextReply s = .never → ∀ n : Nat, Sys2Proof.core.run n s = .next s) ∧
    (TransportAnswers s → ∃ t, step s = .next t ∧ t.hist.length = s.hist.length + 1 ∧ (t.k.toNat = s.k.toNat + 1 ∨ t.status = .writeError))

/-- 60_exceptions.md R123: exception entry writes `STATUS` and, for `WRITE_ERROR`, `FAILIDX`, and returns the block to idle. -/
def Obligations.ExceptionEntrySavesStatusOnly : Prop :=
  ∀ (s : State) (k : BitVec 16),
    takeException (.writeError k) s = { s with status := .writeError, failidx := k, busy := false } ∧
    takeException .openError s = { s with status := .openError, busy := false } ∧
    takeException .illegalRequest s = { s with status := .illegalRequest, busy := false }

/-! ### Status -/

/-- 10_state.md R29: the fields of `STATUS_WORD` at their bits, their reset values, and a host read of it at any time. -/
def Obligations.StatusWordLayout : Prop :=
  (∀ s : State,
    ((statusWord s).getLsbD 0 = s.busy ∧ (statusWord s).getLsbD 1 = s.fatal ∧
     ((statusWord s).extractLsb' 2 2 = match s.status with
       | .ok => 0
       | .writeError => 1
       | .openError => 2
       | .illegalRequest => 3) ∧
     (statusWord s).getLsbD 4 = s.cv.col ∧ (statusWord s).getLsbD 5 = s.cv.page ∧ (statusWord s).getLsbD 6 = s.cv.wide ∧
     (statusWord s).getLsbD 7 = s.loutValid ∧ (statusWord s).getLsbD 8 = s.xoutValid ∧
     (statusWord s).extractLsb' 9 7 = 0 ∧ (statusWord s).extractLsb' 16 16 = s.failidx) ∧
    ∀ rest : List HostEvent, s.inbox = .readStatus :: rest →
      step s = .next { s with inbox := rest, lastRead := some (.statusWord (statusWord s)) }) ∧
  (∀ (cfg : Config) (link : Link), statusWord (State.resetWith cfg link) = if link = .openFail then 0x00000002 else 0x00000000)

/-- 60_exceptions.md R120, 10_state.md R27, R28: a host read of an output register faults while its valid bit is 0 and returns the
register otherwise. -/
def Obligations.OutputReadsNeedTheirValidBit : Prop :=
  ∀ (s : State) (rest : List HostEvent),
    (s.inbox = .readLout :: rest →
      (s.loutValid = false → step s = .fault .unwrittenLout) ∧
      (s.loutValid = true → step s = .next { s with inbox := rest, lastRead := some (.lout s.lout) })) ∧
    (s.inbox = .readXout :: rest →
      (s.xoutValid = false → step s = .fault .unwrittenXout) ∧
      (s.xoutValid = true → step s = .next { s with inbox := rest, lastRead := some (.xout s.xout) }))

/-- R23: outside reset, `FAILIDX` takes the failed index when a request in progress ends with `WRITE_ERROR`, and changes in no other
step. The last clause is R22's: while a request is in progress `STATUS` keeps the previous result. -/
def Obligations.FailidxChangesOnlyOnWriteError : Prop :=
  ∀ s t : State, step s = .next t → (∀ (link : Link) (rest : List HostEvent), s.inbox ≠ .reset link :: rest) →
    (s.busy = true ∧ t.busy = false ∧ t.status = .writeError → t.failidx = s.k) ∧
    (¬ (s.busy = true ∧ t.busy = false ∧ t.status = .writeError) → t.failidx = s.failidx) ∧
    (t.busy = true → t.status = s.status)

/-- R30: `CV` only grows between resets, and only by the flags of an accepted SETCUR or RENDER. -/
def Obligations.ContractBitsAreSticky : Prop :=
  (∀ s t : State, step s = .next t → (∀ (link : Link) (rest : List HostEvent), s.inbox ≠ .reset link :: rest) →
    (s.cv.col = true → t.cv.col = true) ∧ (s.cv.page = true → t.cv.page = true) ∧ (s.cv.wide = true → t.cv.wide = true)) ∧
  (∀ (s t : State) (i : Instr), s.busy = false → s.fatal = false → exec i s = .next t →
    t.cv.col = (s.cv.col || (contractFlags i).col) ∧ t.cv.page = (s.cv.page || (contractFlags i).page) ∧
    t.cv.wide = (s.cv.wide || (contractFlags i).wide)) ∧
  (∀ (cfg : Config) (link : Link), (State.resetWith cfg link).cv = ⟨false, false, false⟩)

/-- R26: Accept sets `K` to 0, each successful frame write adds 1, and `K` never exceeds `len(PLAN)`. -/
def Obligations.FrameIndexCountsDeliveredFrames : Prop :=
  (∀ (s t : State) (i : Instr), s.busy = false → s.fatal = false → exec i s = .next t → t.k = 0) ∧
  (∀ s t : State, s.Inv → s.busy = true → s.inbox = [] → step s = .next t →
    (nextReply s = .ok → t.k.toNat = s.k.toNat + 1) ∧ (nextReply s ≠ .ok → t.k = s.k) ∧ t.k.toNat ≤ t.plan.length)

/-- 10_state.md R31 to R33: no step writes the glyph ROM, the initialization list or the bases. -/
def Obligations.ConfigurationIsNeverWritten : Prop :=
  ∀ s t : State, step s = .next t → t.cfg = s.cfg

/-- 20_memory.md R57: outside reset, a step sends at most one frame, the one at `PLAN[K]`, at the end of the history. -/
def Obligations.HistoryGrowsByTheCurrentFrame : Prop :=
  ∀ s t : State, step s = .next t → (∀ (link : Link) (rest : List HostEvent), s.inbox ≠ .reset link :: rest) →
    t.hist = s.hist ∨
    ∃ (e : PlanEntry) (r : Answer), s.busy = true ∧ s.plan[s.k.toNat]? = some e ∧ t.hist = s.hist ++ [⟨e.frame, r, e.tag⟩] ∧
      t.disp = dispStep s.disp ⟨e.frame, r, e.tag⟩

/-! ### Reset -/

/-- 10_state.md R40, 20_memory.md R62, 70_reset_and_hazards.md R132: what reset leaves, from any state. `LOUT`, `XOUT` and `REQ` are
unspecified: a host read of the first two faults. -/
def Obligations.ResetValues : Prop :=
  ∀ (s : State) (link : Link) (rest : List HostEvent), s.inbox = .reset link :: rest →
    ∃ t, step s = .next t ∧
      t.busy = false ∧ (t.fatal = true ↔ link = .openFail) ∧ t.status = .ok ∧ t.failidx = 0 ∧ t.cv = ⟨false, false, false⟩ ∧
      t.loutValid = false ∧ t.xoutValid = false ∧ t.txt = [] ∧ t.plan = [] ∧ t.k = 0 ∧ t.cfg = s.cfg ∧ t.hist = [] ∧
      t.disp.ctl = .uninit ∧ t.disp.cur = none ∧ (∀ c : Cursor, t.disp.byteAt c = none) ∧
      (∀ rest', step { t with inbox := .readLout :: rest' } = .fault .unwrittenLout) ∧
      (∀ rest', step { t with inbox := .readXout :: rest' } = .fault .unwrittenXout)

/-! ### Display -/

/-- 20_memory.md R65: the cursor after a data write. -/
def Obligations.NextCursor : Prop :=
  ∀ (c : Cursor),
    (c.col.val < 127 → ∃ d, c.next = some d ∧ d.col.val = c.col.val + 1 ∧ d.page = c.page) ∧
    (c.col.val = 127 → c.page.val < 3 → ∃ d, c.next = some d ∧ d.col.val = 0 ∧ d.page.val = c.page.val + 1) ∧
    (c.col.val = 127 → c.page.val = 3 → c.next = none)

/-- R64, arm `T_DATA`: a delivered data frame writes one byte at the cursor of a `READY` display, moves the cursor by R65, and leaves
every other byte; without a known cursor nothing is known of the memory any more. -/
def Obligations.DataFramePaintsOneByte : Prop :=
  ∀ (s : State) (b : Byte),
    s.busy = true → s.plan[s.k.toNat]? = some ⟨⟨0x40, b⟩, .data⟩ → nextReply s = .ok →
    (∀ c : Cursor, s.disp.ctl = .ready → s.disp.cur = some c →
      ∃ t, exec (.frameData b) s = .next t ∧ t.disp.byteAt c = some b ∧ t.disp.ctl = .ready ∧ t.disp.cur = c.next ∧
        ∀ c' : Cursor, c' ≠ c → t.disp.byteAt c' = s.disp.byteAt c') ∧
    (s.disp.ctl ≠ .ready ∨ s.disp.cur = none →
      ∃ t, exec (.frameData b) s = .next t ∧ t.disp.ctl = s.disp.ctl ∧ t.disp.cur = none ∧ ∀ c : Cursor, t.disp.byteAt c = none)

/-- R64, arm `T_ADDR`: the three cursor frames paint nothing; the third sets the cursor of a `READY` display, and out of range it loses
the configuration and the memory. -/
def Obligations.CursorSettingMovesTheCursor : Prop :=
  ∀ (d : Disp) (f : Frame) (col page : Byte) (slot : CursorSlot),
    (slot ≠ .colHigh →
      (dispStep d ⟨f, .ok, .addr slot col page⟩).cur = none ∧ (dispStep d ⟨f, .ok, .addr slot col page⟩).ctl = d.ctl ∧
      ∀ c : Cursor, (dispStep d ⟨f, .ok, .addr slot col page⟩).byteAt c = d.byteAt c) ∧
    (slot = .colHigh → d.ctl = .ready → col.toNat ≤ 127 → page.toNat ≤ 3 →
      ∃ c : Cursor, c.col.val = col.toNat ∧ c.page.val = page.toNat ∧
        dispStep d ⟨f, .ok, .addr slot col page⟩ = { d with cur := some c }) ∧
    (slot = .colHigh → d.ctl = .ready → (127 < col.toNat ∨ 3 < page.toNat) →
      (dispStep d ⟨f, .ok, .addr slot col page⟩).ctl = .unknown ∧ (dispStep d ⟨f, .ok, .addr slot col page⟩).cur = none ∧
      ∀ c : Cursor, (dispStep d ⟨f, .ok, .addr slot col page⟩).byteAt c = none) ∧
    (slot = .colHigh → d.ctl ≠ .ready → dispStep d ⟨f, .ok, .addr slot col page⟩ = { d with cur := none })

/-- R64 and R52: after a failed write, and after a delivered initialization or raw command byte, cursor and memory are unknown; the
configuration is `READY` only after the last initialization byte, and a failed cursor or data frame keeps it. -/
def Obligations.UnknownAfterFailureAndCommands : Prop :=
  ∀ (d : Disp) (f : Frame) (r : Answer) (tag : Tag),
    (r = .err ∨ tag = .rawCmd ∨ (∃ last, tag = .init last)) →
    (dispStep d ⟨f, r, tag⟩).cur = none ∧ (∀ c : Cursor, (dispStep d ⟨f, r, tag⟩).byteAt c = none) ∧
    (r = .ok → tag = .init true → (dispStep d ⟨f, r, tag⟩).ctl = .ready) ∧
    (r = .ok → (tag = .init false ∨ tag = .rawCmd) → (dispStep d ⟨f, r, tag⟩).ctl = .unknown) ∧
    (r = .err → ((∃ last, tag = .init last) ∨ tag = .rawCmd) → (dispStep d ⟨f, r, tag⟩).ctl = .unknown) ∧
    (r = .err → (tag = .data ∨ ∃ slot col page, tag = .addr slot col page) → (dispStep d ⟨f, r, tag⟩).ctl = d.ctl)

/-- 20_memory.md R66: the pixel at column `c` and row `r` is one bit of `RAM[r / 8][c]`, bit `r mod 8` from the end that
`PIXEL_BIT_ORDER` names; that there are two orders is the model's reading (notes/assumptions/12.md). -/
def Obligations.PixelIsOneBitOfItsByte : Prop :=
  ∀ (d : Disp) (col : Fin 128) (row : Fin 32) (c : Cursor), c.col = col → c.page.val = row.val / 8 →
    (d.byteAt c = none → ∀ order, d.pixel order col row = none) ∧
    (∀ b : Byte, d.byteAt c = some b →
      d.pixel .lsbTop col row = some (b.getLsbD (row.val % 8)) ∧ d.pixel .msbTop col row = some (b.getMsbD (row.val % 8)))

/-! ### Whole-machine statements -/

/-- The invariant holds at reset, for every configuration the spec allows and either value of `LINK`. -/
def Obligations.ResetMeetsTheInvariant : Prop :=
  ∀ (cfg : Config) (link : Link), cfg.Wf → (State.resetWith cfg link).Inv

/-- Every step keeps the invariant: bounds of `PLAN` and `K` (10_state.md R25, R26), every frame made by the encoder (R93), silence while
`FATAL` (R116), `DISP` computed from `HIST` (R34), and the display memory's canonical form. -/
def Obligations.StepKeepsTheInvariant : Prop :=
  ∀ s t : State, s.Inv → step s = .next t → t.Inv

/-- From every state of the invariant a step completes, except the two host reads of an unwritten output register and a RENDER
presented without its text (60_exceptions.md R120: "Two outcomes exist only in a model and not in GRL"). The completions counted here
include two steps that leave the state as it is and are the model's form, not the spec's: under a silent transport, where 10_state.md R38
has no Emit step (notes/assumptions/14.md), and of an idle block (notes/assumptions/6.md). The refusal in every mode is the model's reading
(notes/assumptions/16.md). -/
def Obligations.OnlyTheHostCanStopTheMachine : Prop :=
  ∀ s : State, s.Inv →
    (∃ t, step s = .next t) ∨
    (∃ rest, s.inbox = .readLout :: rest ∧ s.loutValid = false ∧ step s = .fault .unwrittenLout) ∨
    (∃ rest, s.inbox = .readXout :: rest ∧ s.xoutValid = false ∧ step s = .fault .unwrittenXout) ∨
    (∃ w text rest, s.inbox = .request w text :: rest ∧ s.busy = false ∧ reqOp w = 0x6 ∧ text.length < (reqN w).toNat ∧
      step s = .refused .malformedText)

/-- 10_state.md R36, R39: a request in progress whose remaining writes are all answered `OK` delivers the rest of its plan in order, one
write a step, and completes with `OK`. -/
def Obligations.AnsweredPlanRunsToCompletion : Prop :=
  ∀ (s : State) (later : List TransportReply), s.Inv → s.busy = true → s.inbox = [] →
    s.replies = List.replicate (restOfPlan s).length .ok ++ later →
    ∃ t, Sys2Proof.core.run (restOfPlan s).length s = .next t ∧
      t.busy = false ∧ t.status = .ok ∧ t.hist = s.hist ++ deliveredEntries (restOfPlan s) ∧ t.k.toNat = s.plan.length ∧
      t.plan = s.plan ∧ t.failidx = s.failidx ∧ t.cv = s.cv ∧ t.replies = later

/-- 60_exceptions.md R115: when frame `K + j` is the first to be answered `ERR`, exactly the frames before it were delivered, none after
it is sent, and the request ends with `WRITE_ERROR` and its index. Of the display nothing is said here (UnknownAfterFailureAndCommands
does). The last clause counts the unchanged steps of an idle block, which are the model's form (notes/assumptions/6.md). -/
def Obligations.FirstFailureEndsTheRequest : Prop :=
  ∀ (s : State) (j : Nat) (e : PlanEntry) (later : List TransportReply), s.Inv → s.busy = true → s.inbox = [] →
    (restOfPlan s)[j]? = some e → s.replies = List.replicate j .ok ++ .err :: later →
    ∃ t, Sys2Proof.core.run (j + 1) s = .next t ∧
      t.hist = s.hist ++ deliveredEntries ((restOfPlan s).take j) ++ [⟨e.frame, .err, e.tag⟩] ∧
      t.failidx.toNat = s.k.toNat + j ∧ t.k = t.failidx ∧ t.status = .writeError ∧ t.busy = false ∧
      ∀ n : Nat, Sys2Proof.core.run n t = .next t

/-- 42_controller_init.md R101 with 20_memory.md R64: an INIT whose every write is answered `OK` leaves the display `READY`, cursor and
memory unknown, and sends exactly the list's bytes as command frames, the same at every INIT (R102). -/
def Obligations.CompleteInitReadiesTheDisplay : Prop :=
  ∀ (s : State) (w : BitVec 64) (text : List Byte), s.Inv → s.busy = false → s.fatal = false →
    decodeRequest w = .ok .init → s.inbox = [.request w text] → s.replies = List.replicate s.cfg.initBytes.length .ok →
    ∃ t, Sys2Proof.core.run (1 + s.cfg.initBytes.length) s = .next t ∧ t.busy = false ∧ t.status = .ok ∧
      (t.hist.drop s.hist.length).map (fun h => h.frame) = s.cfg.initBytes.map (fun b => (⟨0x00, b⟩ : Frame)) ∧
      t.disp.ctl = .ready ∧ t.disp.cur = none ∧ ∀ c : Cursor, t.disp.byteAt c = none

/-- 44_frame_renderer.md R107: after a complete CLEAR on a `READY` display every byte is `0x00` and the cursor is ⊥. -/
def Obligations.CompleteClearZeroesTheDisplay : Prop :=
  ∀ (s : State) (w : BitVec 64) (text : List Byte), s.Inv → s.busy = false → s.fatal = false → s.disp.ctl = .ready →
    decodeRequest w = .ok .clear → s.inbox = [.request w text] → s.replies = List.replicate 524 .ok →
    ∃ t, Sys2Proof.core.run 525 s = .next t ∧ t.busy = false ∧ t.status = .ok ∧ t.cv = s.cv ∧
      t.hist.length = s.hist.length + 524 ∧ t.disp.ctl = .ready ∧ t.disp.cur = none ∧
      ∀ c : Cursor, t.disp.byteAt c = some 0x00

/-- R110 with 20_memory.md R64, R65: a complete RENDER that starts in range on a `READY` display and does not pass (127, 3) leaves byte
`j` of the glyph of character `i` at the `10 i + j`-th position after the start, counted along the pages, and every other byte as it
was. -/
def Obligations.CompleteRenderPaintsItsGlyphs : Prop :=
  ∀ (s : State) (w : BitVec 64) (text : List Byte) (x : BitVec 32) (page n : Byte),
    s.Inv → s.busy = false → s.fatal = false → s.disp.ctl = .ready →
    decodeRequest w = .ok (.render x page n) → s.inbox = [.request w text] → text.length = n.toNat →
    0 ≤ x.toInt → x.toInt ≤ 127 → page.toNat ≤ 3 → 128 * page.toNat + x.toNat + 10 * n.toNat ≤ 512 →
    s.replies = List.replicate (3 + 10 * n.toNat) .ok →
    ∃ t, Sys2Proof.core.run (1 + (3 + 10 * n.toNat)) s = .next t ∧ t.busy = false ∧ t.status = .ok ∧ t.disp.ctl = .ready ∧
      (∀ (i : Nat) (c : Byte) (j : Fin 10) (d : Cursor), text[i]? = some c →
        d.address = 128 * page.toNat + x.toNat + 10 * i + j.val →
        t.disp.byteAt d = some (glyphRead s.cfg (glyphIndex c) j)) ∧
      (∀ d : Cursor, d.address < 128 * page.toNat + x.toNat ∨ 128 * page.toNat + x.toNat + 10 * n.toNat ≤ d.address →
        t.disp.byteAt d = s.disp.byteAt d) ∧
      (∀ d : Cursor, t.disp.cur = some d ↔ d.address = 128 * page.toNat + x.toNat + 10 * n.toNat)
end

