-- ==== Sys2Proof/Laws/Memory.lean ====
section
/-! SUPPORT. Laws of the display memory: read after write, and that every operation keeps the canonical form. -/

namespace Sys2Proof.Machine

@[simp] theorem Memory.read_unknown (a : Nat) : Memory.read Memory.unknown a = none := rfl

@[simp] theorem Memory.wf_unknown : Memory.wf Memory.unknown := ⟨List.Pairwise.nil, by simp [Memory.unknown]⟩

@[simp] theorem Memory.read_write_same (m : Memory) (a : Nat) (v : Byte) : (Memory.write m a v).read a = some v := by
  induction m with
  | nil => simp [Memory.write, Memory.read]
  | cons cell rest ih =>
    obtain ⟨b, w⟩ := cell
    by_cases hlt : a < b
    · simp [Memory.write, Memory.read, hlt]
    · by_cases heq : a = b
      · simp [Memory.write, Memory.read, heq]
      · simp [Memory.write, Memory.read, hlt, heq, ih]

theorem Memory.read_write_other (m : Memory) {a a' : Nat} (v : Byte) (h : a' ≠ a) :
    (Memory.write m a v).read a' = m.read a' := by
  induction m with
  | nil => simp [Memory.write, Memory.read, h]
  | cons cell rest ih =>
    obtain ⟨b, w⟩ := cell
    by_cases hlt : a < b
    · simp [Memory.write, Memory.read, hlt, h]
    · by_cases heq : a = b
      · subst heq
        simp [Memory.write, Memory.read, h]
      · simp only [Memory.write, hlt, heq, if_false, Memory.read, ih]

/-- The addresses that a write lists: the written one, or one listed before. -/
theorem Memory.mem_write {m : Memory} {a : Nat} {v : Byte} {cell : Host.Cell} (h : cell ∈ Memory.write m a v) :
    cell = (a, v) ∨ cell ∈ m := by
  induction m with
  | nil => simpa [Memory.write] using h
  | cons c rest ih =>
    obtain ⟨b, w⟩ := c
    simp only [Memory.write] at h
    split at h
    · simpa [or_assoc] using h
    · split at h
      · rcases List.mem_cons.mp h with h | h
        · exact .inl h
        · exact .inr (List.mem_cons_of_mem _ h)
      · rcases List.mem_cons.mp h with h | h
        · exact .inr (h ▸ List.mem_cons_self)
        · exact (ih h).imp_right (List.mem_cons_of_mem _)

theorem Memory.write_wf {m : Memory} (hm : m.wf) {a : Nat} (ha : a < 512) (v : Byte) : (Memory.write m a v).wf := by
  refine ⟨?_, fun cell h => (Memory.mem_write h).elim (fun e => e ▸ ha) (hm.2 cell)⟩
  replace hm := hm.1
  induction m with
  | nil => simp [Memory.write]
  | cons c rest ih =>
    obtain ⟨b, w⟩ := c
    obtain ⟨hhead, htail⟩ := List.pairwise_cons.mp hm
    simp only [Memory.write]
    split
    case isTrue hlt =>
      refine List.pairwise_cons.mpr ⟨fun cell h => ?_, hm⟩
      rcases List.mem_cons.mp h with h | h
      · exact h ▸ hlt
      · exact lt_trans hlt (hhead cell h)
    case isFalse hlt =>
      split
      case isTrue heq => exact List.pairwise_cons.mpr ⟨fun cell h => heq ▸ hhead cell h, htail⟩
      case isFalse heq =>
        refine List.pairwise_cons.mpr ⟨fun cell h => ?_, ih htail⟩
        rcases Memory.mem_write h with h | h
        · subst h; show b < a; omega
        · exact hhead cell h

end Sys2Proof.Machine
end

