-- ==== Sys2Proof/Laws/Display.lean ====
section
/-! SUPPORT. Laws of the display reference model. -/

namespace Sys2Proof.Machine

/-! ### Addresses and cursors -/

theorem Cursor.address_lt (c : Cursor) : c.address < 512 := by
  have := c.col.isLt; have := c.page.isLt; simp only [Cursor.address]; omega

theorem Cursor.address_inj {c d : Cursor} (h : c.address = d.address) : c = d := by
  obtain ⟨⟨cc, _⟩, ⟨cp, _⟩⟩ := c
  obtain ⟨⟨dc, _⟩, ⟨dp, _⟩⟩ := d
  simp only [Cursor.address] at h
  have hc : cc = dc := by omega
  have hp : cp = dp := by omega
  subst hc; subst hp; rfl

/-- The cursor at a linear address, if there is one. -/
def Cursor.ofAddress (a : Nat) : Option Cursor :=
  if h : a < 512 then some ⟨⟨a % 128, by omega⟩, ⟨a / 128, by omega⟩⟩ else none

theorem Cursor.ofAddress_eq_some {a : Nat} {c : Cursor} : Cursor.ofAddress a = some c ↔ c.address = a := by
  unfold Cursor.ofAddress
  constructor
  · intro h
    split at h
    · obtain rfl := Option.some.inj h
      simp only [Cursor.address]; omega
    · cases h
  · intro h
    have hlt := h ▸ c.address_lt
    rw [dif_pos hlt]
    refine congrArg some (Cursor.address_inj ?_)
    simp only [Cursor.address] at h ⊢; omega

@[simp] theorem Cursor.ofAddress_address (c : Cursor) : Cursor.ofAddress c.address = some c :=
  Cursor.ofAddress_eq_some.mpr rfl

/-- `Next` (R65) is the next linear address. -/
theorem Cursor.next_eq (c : Cursor) : c.next = Cursor.ofAddress (c.address + 1) := by
  have hc := c.col.isLt
  have hp := c.page.isLt
  unfold Cursor.next
  split
  · exact (Cursor.ofAddress_eq_some.mpr (by simp only [Cursor.address]; omega)).symm
  · split
    · exact (Cursor.ofAddress_eq_some.mpr (by simp only [Cursor.address, Fin.val_zero]; omega)).symm
    · unfold Cursor.ofAddress
      rw [dif_neg (by simp only [Cursor.address]; omega)]

theorem cursorInRange_eq {col page : Byte} (hc : col.toNat ≤ 127) (hp : page.toNat ≤ 3) :
    cursorInRange col page = Cursor.ofAddress (128 * page.toNat + col.toNat) := by
  unfold cursorInRange
  rw [dif_pos ⟨by omega, by omega⟩]
  exact (Cursor.ofAddress_eq_some.mpr rfl).symm

/-! ### Canonical form -/

/-- Every entry of the history keeps the canonical form of the display memory. -/
theorem dispStep_ram_wf {d : Disp} (h : d.ram.wf) (e : HistEntry) : (dispStep d e).ram.wf := by
  obtain ⟨f, r, t⟩ := e
  cases r with
  | err => cases t <;> exact Memory.wf_unknown
  | ok =>
    cases t with
    | init last => exact Memory.wf_unknown
    | rawCmd => exact Memory.wf_unknown
    | data =>
      simp only [dispStep, Disp.delivered, Disp.paint]
      split
      · exact Memory.write_wf h (Cursor.address_lt _) _
      all_goals exact Memory.wf_unknown
    | addr slot col page =>
      cases slot with
      | pageSelect => exact h
      | colLow => exact h
      | colHigh =>
        simp only [dispStep, Disp.delivered, Disp.setCursor]
        split
        · exact h
        · exact Memory.wf_unknown
        · exact h
        · exact h

theorem Disp.ofHist_append (h : List HistEntry) (e : HistEntry) :
    Disp.ofHist (h ++ [e]) = dispStep (Disp.ofHist h) e := by
  simp [Disp.ofHist, List.foldl_append]

/-! ### A run of data bytes -/

/-- Data bytes delivered to a `READY` display from linear address `a` on, inside the 512 bytes: they fill the addresses in order, leave
every other byte, and the cursor ends behind them. -/
theorem dispStep_data_run (bytes : List Byte) : ∀ (d : Disp) (a : Nat), d.ctl = .ready → d.cur = Cursor.ofAddress a →
    a + bytes.length ≤ 512 →
    let d' := (bytes.map (fun b => (⟨⟨0x40, b⟩, .ok, .data⟩ : HistEntry))).foldl dispStep d
    d'.ctl = .ready ∧ d'.cur = Cursor.ofAddress (a + bytes.length) ∧
      (∀ i (b : Byte), bytes[i]? = some b → d'.ram.read (a + i) = some b) ∧
      (∀ a', a' < a ∨ a + bytes.length ≤ a' → d'.ram.read a' = d.ram.read a') := by
  induction bytes with
  | nil => intro d a hr hc _; exact ⟨hr, hc, by simp, fun _ _ => rfl⟩
  | cons b rest ih =>
    intro d a hr hc hle
    simp only [List.length_cons] at hle
    obtain ⟨c, hac⟩ : ∃ c, Cursor.ofAddress a = some c := by
      unfold Cursor.ofAddress; rw [dif_pos (by omega)]; exact ⟨_, rfl⟩
    have haddr := Cursor.ofAddress_eq_some.mp hac
    have hstep : dispStep d ⟨⟨0x40, b⟩, .ok, .data⟩ = { d with ram := d.ram.write a b, cur := Cursor.ofAddress (a + 1) } := by
      rw [hac] at hc
      simp only [dispStep, Disp.delivered, Disp.paint, hr, hc, haddr, Cursor.next_eq]
    simp only [List.map_cons, List.foldl_cons, hstep]
    obtain ⟨hr', hc', hin, hout⟩ := ih { d with ram := d.ram.write a b, cur := Cursor.ofAddress (a + 1) } (a + 1) hr rfl (by omega)
    refine ⟨hr', by rw [hc', List.length_cons]; congr 1; omega, ?_, ?_⟩
    · intro i b' hb'
      cases i with
      | zero =>
        obtain rfl : b = b' := by simpa using hb'
        rw [hout (a + 0) (.inl (by omega))]
        exact Memory.read_write_same _ _ _
      | succ i =>
        have := hin i b' (by simpa using hb')
        rwa [show a + (i + 1) = a + 1 + i by omega]
    · intro a' ha'
      simp only [List.length_cons] at ha'
      rw [hout a' (by omega)]
      exact Memory.read_write_other _ _ (by omega)

end Sys2Proof.Machine
end

