-- ==== Sys2Proof/Laws/Encoding.lean ====
section
/-! SUPPORT. The fields of a request word and of a frame number, and the cursor command bytes solved for their operand. -/

namespace Sys2Proof

variable (low a b n : Byte) (x : BitVec 32)

theorem requestWord_getLsbD (i : Nat) : (requestWord low a b n x).getLsbD i =
    ((decide (i < 64) && !decide (i < 32) && x.getLsbD (i - 32)) || (decide (i < 64) && !decide (i < 24) && n.getLsbD (i - 24)) ||
     (decide (i < 64) && !decide (i < 16) && b.getLsbD (i - 16)) || (decide (i < 64) && !decide (i < 8) && a.getLsbD (i - 8)) ||
     (decide (i < 64) && low.getLsbD i)) := by
  unfold requestWord
  simp only [BitVec.getLsbD_or, BitVec.getLsbD_shiftLeft, BitVec.getLsbD_setWidth]
  by_cases h : i < 64
  · simp [h, show i - 32 < 64 by omega, show i - 24 < 64 by omega, show i - 16 < 64 by omega, show i - 8 < 64 by omega]
  · simp [h]

@[simp] theorem reqOp_requestWord : reqOp (requestWord low a b n x) = low.extractLsb' 0 4 := by
  apply BitVec.eq_of_getLsbD_eq
  intro i hi
  simp only [reqOp, BitVec.getLsbD_extractLsb', requestWord_getLsbD]
  interval_cases i <;> simp

@[simp] theorem reqD_requestWord : reqD (requestWord low a b n x) = low.extractLsb' 4 1 := by
  apply BitVec.eq_of_getLsbD_eq
  intro i hi
  simp only [reqD, BitVec.getLsbD_extractLsb', requestWord_getLsbD]
  interval_cases i; simp

@[simp] theorem reqRsv_requestWord : reqRsv (requestWord low a b n x) = low.extractLsb' 5 3 := by
  apply BitVec.eq_of_getLsbD_eq
  intro i hi
  simp only [reqRsv, BitVec.getLsbD_extractLsb', requestWord_getLsbD]
  interval_cases i <;> simp

@[simp] theorem reqA_requestWord : reqA (requestWord low a b n x) = a := by
  apply BitVec.eq_of_getLsbD_eq
  intro i hi
  simp only [reqA, BitVec.getLsbD_extractLsb', requestWord_getLsbD]
  interval_cases i <;> simp

@[simp] theorem reqB_requestWord : reqB (requestWord low a b n x) = b := by
  apply BitVec.eq_of_getLsbD_eq
  intro i hi
  simp only [reqB, BitVec.getLsbD_extractLsb', requestWord_getLsbD]
  interval_cases i <;> simp

@[simp] theorem reqN_requestWord : reqN (requestWord low a b n x) = n := by
  apply BitVec.eq_of_getLsbD_eq
  intro i hi
  simp only [reqN, BitVec.getLsbD_extractLsb', requestWord_getLsbD]
  interval_cases i <;> simp

@[simp] theorem reqX_requestWord : reqX (requestWord low a b n x) = x := by
  apply BitVec.eq_of_getLsbD_eq
  intro i hi
  simp only [reqX, BitVec.getLsbD_extractLsb', requestWord_getLsbD]
  interval_cases i <;> simp

/-- The bits of a frame number: the payload below, the prefix above (R78). -/
theorem frameNumber_getLsbD (c p : Byte) (i : Nat) (h : i < 16) :
    (frameNumber c p).getLsbD i = ((!decide (i < 8) && c.getLsbD (i - 8)) || p.getLsbD i) := by
  unfold frameNumber
  simp [h]

@[simp] theorem frameNumber_prefix (c p : Byte) : (frameNumber c p).extractLsb' 8 8 = c := by
  apply BitVec.eq_of_getLsbD_eq
  intro i hi
  rw [BitVec.getLsbD_extractLsb', frameNumber_getLsbD _ _ _ (by omega)]
  interval_cases i <;> simp

@[simp] theorem frameNumber_payload (c p : Byte) : (frameNumber c p).extractLsb' 0 8 = p := by
  apply BitVec.eq_of_getLsbD_eq
  intro i hi
  rw [BitVec.getLsbD_extractLsb', frameNumber_getLsbD _ _ _ (by omega)]
  interval_cases i <;> simp

/-- A base added to an operand is subtracted again (R79 to R81 solved for the operand). -/
theorem base_add_sub (base v : Byte) : base + v - base = v := by
  rw [BitVec.add_comm, BitVec.add_sub_cancel]

/-- Masking with `NIBBLE_MASK` keeps the value modulo 16 (R80, R81). -/
theorem toNat_and_nibble (v : Byte) : (v &&& 0x0F).toNat = v.toNat % 16 := by
  rw [BitVec.toNat_and]
  exact Nat.and_two_pow_sub_one_eq_mod v.toNat 4

/-- The low nibble of a base with a zero low nibble plus a nibble (10_state.md R33, R82). -/
theorem nibble_of_base_add {base v : Byte} (hb : base &&& 0x0F = 0) (hv : v.toNat < 16) : (base + v) &&& 0x0F = v := by
  have hbase : base.toNat % 16 = 0 := by rw [← toNat_and_nibble, hb]; rfl
  apply BitVec.eq_of_toNat_eq
  rw [toNat_and_nibble, BitVec.toNat_add]
  omega

/-! ### Request words by their low byte (R74) -/

theorem reqOp_eq_low (w : BitVec 64) : reqOp w = (w.extractLsb' 0 8).extractLsb' 0 4 := by
  apply BitVec.eq_of_getLsbD_eq
  intro i hi
  simp [reqOp, hi]

theorem reqD_eq_low (w : BitVec 64) : reqD w = (w.extractLsb' 0 8).extractLsb' 4 1 := by
  apply BitVec.eq_of_getLsbD_eq
  intro i hi
  simp [reqD, hi]

theorem reqRsv_eq_low (w : BitVec 64) : reqRsv w = (w.extractLsb' 0 8).extractLsb' 5 3 := by
  apply BitVec.eq_of_getLsbD_eq
  intro i hi
  simp [reqRsv, hi]

/-- Truncating a signed column to 8 bits is taking its value modulo 256 (44_frame_renderer.md R110). -/
theorem ofInt_toInt_byte (x : BitVec 32) : BitVec.ofInt 8 x.toInt = x.setWidth 8 := by
  apply BitVec.eq_of_toNat_eq
  have := x.isLt
  rw [BitVec.toNat_ofInt, BitVec.toNat_setWidth, BitVec.toInt_eq_toNat_cond]
  split <;> omega

end Sys2Proof
end

