-- ==== Sys2Proof/Laws/Plan.lean ====
section
/-! SUPPORT. The plans: their lengths, their entries by index, and that GRL's own frames are all it plans. -/

namespace Sys2Proof.Machine

/-! ### Glyph streams -/

@[simp] theorem glyphOf_toList_length (cfg : Config) (c : Byte) : (glyphOf cfg c).toList.length = 10 := by simp

theorem glyphOf_toList_getElem? (cfg : Config) (c : Byte) (j : Fin 10) :
    (glyphOf cfg c).toList[j.val]? = some (glyphRead cfg (glyphIndex c) j) := by
  rw [List.getElem?_eq_getElem (by simp)]
  simp [glyphOf]

@[simp] theorem glyphStream_nil (cfg : Config) : glyphStream cfg [] = [] := rfl

@[simp] theorem glyphStream_cons (cfg : Config) (c : Byte) (t : List Byte) :
    glyphStream cfg (c :: t) = (glyphOf cfg c).toList ++ glyphStream cfg t := rfl

theorem glyphStream_append (cfg : Config) (t u : List Byte) : glyphStream cfg (t ++ u) = glyphStream cfg t ++ glyphStream cfg u := by
  simp [glyphStream]

@[simp] theorem glyphStream_length (cfg : Config) (t : List Byte) : (glyphStream cfg t).length = 10 * t.length := by
  induction t with
  | nil => rfl
  | cons c t ih => rw [glyphStream_cons, List.length_append, glyphOf_toList_length, ih, List.length_cons]; omega

theorem glyphStream_getElem? (cfg : Config) (t : List Byte) : ∀ (i : Nat) (c : Byte) (j : Fin 10), t[i]? = some c →
    (glyphStream cfg t)[10 * i + j.val]? = some (glyphRead cfg (glyphIndex c) j) := by
  induction t with
  | nil => simp
  | cons c t ih =>
    intro i c' j h
    have hj := j.isLt
    rw [glyphStream_cons]
    cases i with
    | zero =>
      obtain rfl : c = c' := by simpa using h
      rw [List.getElem?_append_left (by simp), show 10 * 0 + j.val = j.val by omega]
      exact glyphOf_toList_getElem? cfg c j
    | succ i =>
      rw [List.getElem?_append_right (by simp; omega), glyphOf_toList_length,
        show 10 * (i + 1) + j.val - 10 = 10 * i + j.val by omega]
      exact ih i c' j (by simpa using h)

/-! ### Lengths -/

@[simp] theorem cursorFrames_length (cfg : Config) (col page : Byte) : (cursorFrames cfg col page).length = 3 := rfl

@[simp] theorem initEntries_length (bytes : List Byte) : (initEntries bytes).length = bytes.length := by
  induction bytes with
  | nil => rfl
  | cons b rest ih =>
    cases rest with
    | nil => rfl
    | cons b' rest => simpa [initEntries] using ih

@[simp] theorem planInit_length (cfg : Config) : (planInit cfg).length = cfg.initBytes.length := initEntries_length _

@[simp] theorem clearPage_length (cfg : Config) (page : Byte) : (clearPage cfg page).length = 131 := by
  simp [clearPage, displayCols]

@[simp] theorem planClear_length (cfg : Config) : (planClear cfg).length = 524 := by simp [planClear]

@[simp] theorem planRender_length (cfg : Config) (x : BitVec 32) (page : Byte) (text : List Byte) :
    (planRender cfg x page text).length = 3 + 10 * text.length := by
  simp [planRender]

/-- A configuration of the spec has at least one byte in each of the 16 items (R101: "at least 16"). -/
theorem initBytes_length_ge {cfg : Config} (h : cfg.Wf) : 16 ≤ cfg.initBytes.length := by
  have key : ∀ l : List (List Byte), (∀ item ∈ l, item ≠ []) → l.length ≤ l.flatten.length := by
    intro l
    induction l with
    | nil => simp
    | cons item l ih =>
      intro hl
      have h1 := List.length_pos_iff.mpr (hl item (by simp))
      have h2 := ih (fun i hi => hl i (by simp [hi]))
      simp only [List.length_cons, List.flatten_cons, List.length_append]
      omega
  have := key cfg.initSeq.toList h.items_nonempty
  simpa [Config.initBytes] using this

theorem planOf_length_le {cfg : Config} (h : cfg.Wf) {text : List Byte} (i : Instr) :
    (planOf cfg text i).length ≤ 65535 := by
  cases i with
  | init => simpa [planOf] using h.initBytes_le
  | render x page n =>
    have := n.isLt
    simp only [planOf, planRender_length, List.length_take]
    omega
  | _ => simp [planOf]

/-! ### Entries -/

theorem initEntries_getElem? (bytes : List Byte) : ∀ (k : Nat) (b : Byte), bytes[k]? = some b →
    (initEntries bytes)[k]? = some ⟨cmdFrame b, .init (decide (k + 1 = bytes.length))⟩ := by
  induction bytes with
  | nil => simp
  | cons b rest ih =>
    intro k b' h
    cases rest with
    | nil =>
      cases k with
      | zero =>
        obtain rfl : b = b' := by simpa using h
        simp [initEntries]
      | succ k => simp at h
    | cons b2 rest =>
      cases k with
      | zero =>
        obtain rfl : b = b' := by simpa using h
        simp [initEntries]
      | succ k =>
        have := ih k b' (by simpa using h)
        simpa [initEntries] using this

theorem initEntries_frames (bytes : List Byte) : (initEntries bytes).map (fun e => e.frame) = bytes.map cmdFrame := by
  induction bytes with
  | nil => rfl
  | cons b rest ih =>
    cases rest with
    | nil => rfl
    | cons b' rest => simpa [initEntries] using ih

theorem clearPage_data {cfg : Config} {page : Byte} {i : Nat} (h : i < displayCols) :
    (clearPage cfg page)[3 + i]? = some (dataEntry 0) := by
  rw [clearPage, List.getElem?_append_right (by simp), cursorFrames_length, Nat.add_sub_cancel_left,
    List.getElem?_replicate, if_pos h]

/-- `Plan(CLEAR)` page by page (R107). -/
theorem planClear_getElem? (cfg : Config) {p r : Nat} (hp : p ≤ 3) (hr : r < 131) :
    (planClear cfg)[131 * p + r]? = (clearPage cfg (BitVec.ofNat 8 p))[r]? := by
  have l : ∀ page, (clearPage cfg page).length = 131 := clearPage_length cfg
  obtain rfl | rfl | rfl | rfl : p = 0 ∨ p = 1 ∨ p = 2 ∨ p = 3 := by omega
  all_goals unfold planClear
  · rw [List.append_assoc, List.append_assoc, List.getElem?_append_left (by rw [l]; omega), Nat.mul_zero, Nat.zero_add]
    rfl
  · rw [List.append_assoc, List.append_assoc, List.getElem?_append_right (by rw [l]; omega),
      List.getElem?_append_left (by rw [l, l]; omega), l, Nat.mul_one, Nat.add_sub_cancel_left]
    rfl
  · rw [List.append_assoc, List.getElem?_append_right (by rw [List.length_append, l, l]; omega),
      List.getElem?_append_left (by rw [List.length_append, l, l, l]; omega), List.length_append, l, l,
      show 131 * 2 + r - (131 + 131) = r by omega]
    rfl
  · rw [List.getElem?_append_right (by simp only [List.length_append, l]; omega)]
    simp only [List.length_append, l]
    rw [show 131 * 3 + r - (131 + 131 + 131) = r by omega]
    rfl

/-! ### Framing (R93, R103) -/

theorem cursorFrames_framed (cfg : Config) (col page : Byte) :
    ∀ e ∈ cursorFrames cfg col page, framedAs cfg e.frame e.tag := by
  simp [cursorFrames, framedAs, cursorCommand]

theorem dataEntry_framed (cfg : Config) (b : Byte) : framedAs cfg (dataEntry b).frame (dataEntry b).tag := rfl

theorem initEntries_framed (cfg : Config) (bytes : List Byte) : ∀ e ∈ initEntries bytes, framedAs cfg e.frame e.tag := by
  induction bytes with
  | nil => simp [initEntries]
  | cons b rest ih =>
    cases rest with
    | nil => simp [initEntries, framedAs, cmdFrame, encodeFrame]
    | cons b' rest =>
      intro e he
      rcases List.mem_cons.mp he with rfl | he
      · rfl
      · exact ih e he

theorem clearPage_framed (cfg : Config) (page : Byte) : ∀ e ∈ clearPage cfg page, framedAs cfg e.frame e.tag := by
  intro e he
  rcases List.mem_append.mp he with he | he
  · exact cursorFrames_framed _ _ _ e he
  · exact List.eq_of_mem_replicate he ▸ dataEntry_framed cfg 0

/-- Every plan consists of frames the encoder makes, under the tags of R63. -/
theorem planOf_framed (cfg : Config) (text : List Byte) (i : Instr) :
    ∀ e ∈ planOf cfg text i, framedAs cfg e.frame e.tag := by
  cases i with
  | cmd b => simp [planOf, framedAs, cmdFrame, encodeFrame]
  | data b => simp [planOf, framedAs, datFrame, encodeFrame]
  | init => exact initEntries_framed cfg _
  | setcur col page => exact cursorFrames_framed cfg col page
  | clear =>
    intro e he
    simp only [planOf, planClear, List.mem_append] at he
    rcases he with ((he | he) | he) | he <;> exact clearPage_framed cfg _ e he
  | render x page n =>
    intro e he
    rcases List.mem_append.mp he with he | he
    · exact cursorFrames_framed _ _ _ e he
    · obtain ⟨b, -, rfl⟩ := List.mem_map.mp he
      exact dataEntry_framed cfg b
  | _ => simp [planOf]

end Sys2Proof.Machine
end

