-- ==== Sys2Proof/Laws/State.lean ====
section
/-! SUPPORT. One lemma per field per state update: what each shared update leaves unchanged, and what it writes. -/

namespace Sys2Proof.Machine

variable (s : State)

/-! ### `takeException` -/

@[simp] theorem takeException_cfg (e : GrlException) : (takeException e s).cfg = s.cfg := by cases e <;> rfl
@[simp] theorem takeException_req (e : GrlException) : (takeException e s).req = s.req := by cases e <;> rfl
@[simp] theorem takeException_txt (e : GrlException) : (takeException e s).txt = s.txt := by cases e <;> rfl
@[simp] theorem takeException_fatal (e : GrlException) : (takeException e s).fatal = s.fatal := by cases e <;> rfl
@[simp] theorem takeException_cv (e : GrlException) : (takeException e s).cv = s.cv := by cases e <;> rfl
@[simp] theorem takeException_lout (e : GrlException) : (takeException e s).lout = s.lout := by cases e <;> rfl
@[simp] theorem takeException_loutValid (e : GrlException) : (takeException e s).loutValid = s.loutValid := by cases e <;> rfl
@[simp] theorem takeException_xout (e : GrlException) : (takeException e s).xout = s.xout := by cases e <;> rfl
@[simp] theorem takeException_xoutValid (e : GrlException) : (takeException e s).xoutValid = s.xoutValid := by cases e <;> rfl
@[simp] theorem takeException_plan (e : GrlException) : (takeException e s).plan = s.plan := by cases e <;> rfl
@[simp] theorem takeException_k (e : GrlException) : (takeException e s).k = s.k := by cases e <;> rfl
@[simp] theorem takeException_hist (e : GrlException) : (takeException e s).hist = s.hist := by cases e <;> rfl
@[simp] theorem takeException_disp (e : GrlException) : (takeException e s).disp = s.disp := by cases e <;> rfl
@[simp] theorem takeException_inbox (e : GrlException) : (takeException e s).inbox = s.inbox := by cases e <;> rfl
@[simp] theorem takeException_replies (e : GrlException) : (takeException e s).replies = s.replies := by cases e <;> rfl
@[simp] theorem takeException_draws (e : GrlException) : (takeException e s).draws = s.draws := by cases e <;> rfl
@[simp] theorem takeException_lastRead (e : GrlException) : (takeException e s).lastRead = s.lastRead := by cases e <;> rfl
@[simp] theorem takeException_busy (e : GrlException) : (takeException e s).busy = false := by cases e <;> rfl
@[simp] theorem takeException_writeError_status (k : BitVec 16) : (takeException (.writeError k) s).status = .writeError := rfl
@[simp] theorem takeException_writeError_failidx (k : BitVec 16) : (takeException (.writeError k) s).failidx = k := rfl
@[simp] theorem takeException_openError_status : (takeException .openError s).status = .openError := rfl
@[simp] theorem takeException_openError_failidx : (takeException .openError s).failidx = s.failidx := rfl
@[simp] theorem takeException_illegalRequest_status : (takeException .illegalRequest s).status = .illegalRequest := rfl
@[simp] theorem takeException_illegalRequest_failidx : (takeException .illegalRequest s).failidx = s.failidx := rfl

/-! ### `startPlan` -/

@[simp] theorem startPlan_cfg (p : List PlanEntry) : (startPlan p s).cfg = s.cfg := by cases p <;> rfl
@[simp] theorem startPlan_req (p : List PlanEntry) : (startPlan p s).req = s.req := by cases p <;> rfl
@[simp] theorem startPlan_txt (p : List PlanEntry) : (startPlan p s).txt = s.txt := by cases p <;> rfl
@[simp] theorem startPlan_fatal (p : List PlanEntry) : (startPlan p s).fatal = s.fatal := by cases p <;> rfl
@[simp] theorem startPlan_failidx (p : List PlanEntry) : (startPlan p s).failidx = s.failidx := by cases p <;> rfl
@[simp] theorem startPlan_cv (p : List PlanEntry) : (startPlan p s).cv = s.cv := by cases p <;> rfl
@[simp] theorem startPlan_lout (p : List PlanEntry) : (startPlan p s).lout = s.lout := by cases p <;> rfl
@[simp] theorem startPlan_loutValid (p : List PlanEntry) : (startPlan p s).loutValid = s.loutValid := by cases p <;> rfl
@[simp] theorem startPlan_xout (p : List PlanEntry) : (startPlan p s).xout = s.xout := by cases p <;> rfl
@[simp] theorem startPlan_xoutValid (p : List PlanEntry) : (startPlan p s).xoutValid = s.xoutValid := by cases p <;> rfl
@[simp] theorem startPlan_hist (p : List PlanEntry) : (startPlan p s).hist = s.hist := by cases p <;> rfl
@[simp] theorem startPlan_disp (p : List PlanEntry) : (startPlan p s).disp = s.disp := by cases p <;> rfl
@[simp] theorem startPlan_inbox (p : List PlanEntry) : (startPlan p s).inbox = s.inbox := by cases p <;> rfl
@[simp] theorem startPlan_replies (p : List PlanEntry) : (startPlan p s).replies = s.replies := by cases p <;> rfl
@[simp] theorem startPlan_draws (p : List PlanEntry) : (startPlan p s).draws = s.draws := by cases p <;> rfl
@[simp] theorem startPlan_lastRead (p : List PlanEntry) : (startPlan p s).lastRead = s.lastRead := by cases p <;> rfl
@[simp] theorem startPlan_plan (p : List PlanEntry) : (startPlan p s).plan = p := by cases p <;> rfl
@[simp] theorem startPlan_k (p : List PlanEntry) : (startPlan p s).k = 0 := by cases p <;> rfl
@[simp] theorem startPlan_nil_status : (startPlan [] s).status = .ok := rfl
@[simp] theorem startPlan_nil_busy : (startPlan [] s).busy = s.busy := rfl
@[simp] theorem startPlan_cons_status (e : PlanEntry) (p : List PlanEntry) : (startPlan (e :: p) s).status = s.status := rfl
@[simp] theorem startPlan_cons_busy (e : PlanEntry) (p : List PlanEntry) : (startPlan (e :: p) s).busy = true := rfl

/-! ### `consumeReply` -/

@[simp] theorem consumeReply_cfg : (consumeReply s).cfg = s.cfg := by unfold consumeReply; split <;> rfl
@[simp] theorem consumeReply_req : (consumeReply s).req = s.req := by unfold consumeReply; split <;> rfl
@[simp] theorem consumeReply_txt : (consumeReply s).txt = s.txt := by unfold consumeReply; split <;> rfl
@[simp] theorem consumeReply_busy : (consumeReply s).busy = s.busy := by unfold consumeReply; split <;> rfl
@[simp] theorem consumeReply_fatal : (consumeReply s).fatal = s.fatal := by unfold consumeReply; split <;> rfl
@[simp] theorem consumeReply_status : (consumeReply s).status = s.status := by unfold consumeReply; split <;> rfl
@[simp] theorem consumeReply_failidx : (consumeReply s).failidx = s.failidx := by unfold consumeReply; split <;> rfl
@[simp] theorem consumeReply_cv : (consumeReply s).cv = s.cv := by unfold consumeReply; split <;> rfl
@[simp] theorem consumeReply_lout : (consumeReply s).lout = s.lout := by unfold consumeReply; split <;> rfl
@[simp] theorem consumeReply_loutValid : (consumeReply s).loutValid = s.loutValid := by unfold consumeReply; split <;> rfl
@[simp] theorem consumeReply_xout : (consumeReply s).xout = s.xout := by unfold consumeReply; split <;> rfl
@[simp] theorem consumeReply_xoutValid : (consumeReply s).xoutValid = s.xoutValid := by unfold consumeReply; split <;> rfl
@[simp] theorem consumeReply_plan : (consumeReply s).plan = s.plan := by unfold consumeReply; split <;> rfl
@[simp] theorem consumeReply_k : (consumeReply s).k = s.k := by unfold consumeReply; split <;> rfl
@[simp] theorem consumeReply_hist : (consumeReply s).hist = s.hist := by unfold consumeReply; split <;> rfl
@[simp] theorem consumeReply_disp : (consumeReply s).disp = s.disp := by unfold consumeReply; split <;> rfl
@[simp] theorem consumeReply_inbox : (consumeReply s).inbox = s.inbox := by unfold consumeReply; split <;> rfl
@[simp] theorem consumeReply_lastRead : (consumeReply s).lastRead = s.lastRead := by unfold consumeReply; split <;> rfl

/-! ### `recordWrite` -/

@[simp] theorem recordWrite_cfg (e : PlanEntry) (r : Answer) : (recordWrite e r s).cfg = s.cfg := rfl
@[simp] theorem recordWrite_req (e : PlanEntry) (r : Answer) : (recordWrite e r s).req = s.req := rfl
@[simp] theorem recordWrite_txt (e : PlanEntry) (r : Answer) : (recordWrite e r s).txt = s.txt := rfl
@[simp] theorem recordWrite_busy (e : PlanEntry) (r : Answer) : (recordWrite e r s).busy = s.busy := rfl
@[simp] theorem recordWrite_fatal (e : PlanEntry) (r : Answer) : (recordWrite e r s).fatal = s.fatal := rfl
@[simp] theorem recordWrite_status (e : PlanEntry) (r : Answer) : (recordWrite e r s).status = s.status := rfl
@[simp] theorem recordWrite_failidx (e : PlanEntry) (r : Answer) : (recordWrite e r s).failidx = s.failidx := rfl
@[simp] theorem recordWrite_cv (e : PlanEntry) (r : Answer) : (recordWrite e r s).cv = s.cv := rfl
@[simp] theorem recordWrite_lout (e : PlanEntry) (r : Answer) : (recordWrite e r s).lout = s.lout := rfl
@[simp] theorem recordWrite_loutValid (e : PlanEntry) (r : Answer) : (recordWrite e r s).loutValid = s.loutValid := rfl
@[simp] theorem recordWrite_xout (e : PlanEntry) (r : Answer) : (recordWrite e r s).xout = s.xout := rfl
@[simp] theorem recordWrite_xoutValid (e : PlanEntry) (r : Answer) : (recordWrite e r s).xoutValid = s.xoutValid := rfl
@[simp] theorem recordWrite_plan (e : PlanEntry) (r : Answer) : (recordWrite e r s).plan = s.plan := rfl
@[simp] theorem recordWrite_k (e : PlanEntry) (r : Answer) : (recordWrite e r s).k = s.k := rfl
@[simp] theorem recordWrite_inbox (e : PlanEntry) (r : Answer) : (recordWrite e r s).inbox = s.inbox := rfl
@[simp] theorem recordWrite_replies (e : PlanEntry) (r : Answer) : (recordWrite e r s).replies = s.replies := rfl
@[simp] theorem recordWrite_draws (e : PlanEntry) (r : Answer) : (recordWrite e r s).draws = s.draws := rfl
@[simp] theorem recordWrite_lastRead (e : PlanEntry) (r : Answer) : (recordWrite e r s).lastRead = s.lastRead := rfl
@[simp] theorem recordWrite_hist (e : PlanEntry) (r : Answer) : (recordWrite e r s).hist = s.hist ++ [⟨e.frame, r, e.tag⟩] := rfl
@[simp] theorem recordWrite_disp (e : PlanEntry) (r : Answer) : (recordWrite e r s).disp = dispStep s.disp ⟨e.frame, r, e.tag⟩ := rfl

/-! ### `advance` -/

@[simp] theorem advance_cfg : (advance s).cfg = s.cfg := by unfold advance; split <;> rfl
@[simp] theorem advance_req : (advance s).req = s.req := by unfold advance; split <;> rfl
@[simp] theorem advance_txt : (advance s).txt = s.txt := by unfold advance; split <;> rfl
@[simp] theorem advance_fatal : (advance s).fatal = s.fatal := by unfold advance; split <;> rfl
@[simp] theorem advance_failidx : (advance s).failidx = s.failidx := by unfold advance; split <;> rfl
@[simp] theorem advance_cv : (advance s).cv = s.cv := by unfold advance; split <;> rfl
@[simp] theorem advance_lout : (advance s).lout = s.lout := by unfold advance; split <;> rfl
@[simp] theorem advance_loutValid : (advance s).loutValid = s.loutValid := by unfold advance; split <;> rfl
@[simp] theorem advance_xout : (advance s).xout = s.xout := by unfold advance; split <;> rfl
@[simp] theorem advance_xoutValid : (advance s).xoutValid = s.xoutValid := by unfold advance; split <;> rfl
@[simp] theorem advance_plan : (advance s).plan = s.plan := by unfold advance; split <;> rfl
@[simp] theorem advance_hist : (advance s).hist = s.hist := by unfold advance; split <;> rfl
@[simp] theorem advance_disp : (advance s).disp = s.disp := by unfold advance; split <;> rfl
@[simp] theorem advance_inbox : (advance s).inbox = s.inbox := by unfold advance; split <;> rfl
@[simp] theorem advance_replies : (advance s).replies = s.replies := by unfold advance; split <;> rfl
@[simp] theorem advance_draws : (advance s).draws = s.draws := by unfold advance; split <;> rfl
@[simp] theorem advance_lastRead : (advance s).lastRead = s.lastRead := by unfold advance; split <;> rfl
@[simp] theorem advance_k : (advance s).k = s.k + 1 := by unfold advance; split <;> rfl

/-! ### `latchRequest` -/

@[simp] theorem latchRequest_cfg (w : BitVec 64) (text : List Byte) : (latchRequest w text s).cfg = s.cfg := rfl
@[simp] theorem latchRequest_busy (w : BitVec 64) (text : List Byte) : (latchRequest w text s).busy = s.busy := rfl
@[simp] theorem latchRequest_fatal (w : BitVec 64) (text : List Byte) : (latchRequest w text s).fatal = s.fatal := rfl
@[simp] theorem latchRequest_status (w : BitVec 64) (text : List Byte) : (latchRequest w text s).status = s.status := rfl
@[simp] theorem latchRequest_failidx (w : BitVec 64) (text : List Byte) : (latchRequest w text s).failidx = s.failidx := rfl
@[simp] theorem latchRequest_cv (w : BitVec 64) (text : List Byte) : (latchRequest w text s).cv = s.cv := rfl
@[simp] theorem latchRequest_lout (w : BitVec 64) (text : List Byte) : (latchRequest w text s).lout = s.lout := rfl
@[simp] theorem latchRequest_loutValid (w : BitVec 64) (text : List Byte) : (latchRequest w text s).loutValid = s.loutValid := rfl
@[simp] theorem latchRequest_xout (w : BitVec 64) (text : List Byte) : (latchRequest w text s).xout = s.xout := rfl
@[simp] theorem latchRequest_xoutValid (w : BitVec 64) (text : List Byte) : (latchRequest w text s).xoutValid = s.xoutValid := rfl
@[simp] theorem latchRequest_plan (w : BitVec 64) (text : List Byte) : (latchRequest w text s).plan = s.plan := rfl
@[simp] theorem latchRequest_k (w : BitVec 64) (text : List Byte) : (latchRequest w text s).k = s.k := rfl
@[simp] theorem latchRequest_hist (w : BitVec 64) (text : List Byte) : (latchRequest w text s).hist = s.hist := rfl
@[simp] theorem latchRequest_disp (w : BitVec 64) (text : List Byte) : (latchRequest w text s).disp = s.disp := rfl
@[simp] theorem latchRequest_inbox (w : BitVec 64) (text : List Byte) : (latchRequest w text s).inbox = s.inbox := rfl
@[simp] theorem latchRequest_replies (w : BitVec 64) (text : List Byte) : (latchRequest w text s).replies = s.replies := rfl
@[simp] theorem latchRequest_draws (w : BitVec 64) (text : List Byte) : (latchRequest w text s).draws = s.draws := rfl
@[simp] theorem latchRequest_lastRead (w : BitVec 64) (text : List Byte) : (latchRequest w text s).lastRead = s.lastRead := rfl
@[simp] theorem latchRequest_req (w : BitVec 64) (text : List Byte) : (latchRequest w text s).req = w := rfl
@[simp] theorem latchRequest_txt (w : BitVec 64) (text : List Byte) :
    (latchRequest w text s).txt = if reqOp w = 0x6 then text.take (reqN w).toNat else [] := rfl

/-! ### `writeLout` -/

@[simp] theorem writeLout_cfg (c : Byte) : (writeLout c s).cfg = s.cfg := rfl
@[simp] theorem writeLout_req (c : Byte) : (writeLout c s).req = s.req := rfl
@[simp] theorem writeLout_txt (c : Byte) : (writeLout c s).txt = s.txt := rfl
@[simp] theorem writeLout_busy (c : Byte) : (writeLout c s).busy = s.busy := rfl
@[simp] theorem writeLout_fatal (c : Byte) : (writeLout c s).fatal = s.fatal := rfl
@[simp] theorem writeLout_status (c : Byte) : (writeLout c s).status = s.status := rfl
@[simp] theorem writeLout_failidx (c : Byte) : (writeLout c s).failidx = s.failidx := rfl
@[simp] theorem writeLout_cv (c : Byte) : (writeLout c s).cv = s.cv := rfl
@[simp] theorem writeLout_xout (c : Byte) : (writeLout c s).xout = s.xout := rfl
@[simp] theorem writeLout_xoutValid (c : Byte) : (writeLout c s).xoutValid = s.xoutValid := rfl
@[simp] theorem writeLout_plan (c : Byte) : (writeLout c s).plan = s.plan := rfl
@[simp] theorem writeLout_k (c : Byte) : (writeLout c s).k = s.k := rfl
@[simp] theorem writeLout_hist (c : Byte) : (writeLout c s).hist = s.hist := rfl
@[simp] theorem writeLout_disp (c : Byte) : (writeLout c s).disp = s.disp := rfl
@[simp] theorem writeLout_inbox (c : Byte) : (writeLout c s).inbox = s.inbox := rfl
@[simp] theorem writeLout_replies (c : Byte) : (writeLout c s).replies = s.replies := rfl
@[simp] theorem writeLout_draws (c : Byte) : (writeLout c s).draws = s.draws := rfl
@[simp] theorem writeLout_lastRead (c : Byte) : (writeLout c s).lastRead = s.lastRead := rfl
@[simp] theorem writeLout_lout (c : Byte) : (writeLout c s).lout = glyphOf s.cfg c := rfl
@[simp] theorem writeLout_loutValid (c : Byte) : (writeLout c s).loutValid = true := rfl

/-! ### `writeXout` -/

@[simp] theorem writeXout_cfg (n : Byte) : (writeXout n s).cfg = s.cfg := rfl
@[simp] theorem writeXout_req (n : Byte) : (writeXout n s).req = s.req := rfl
@[simp] theorem writeXout_txt (n : Byte) : (writeXout n s).txt = s.txt := rfl
@[simp] theorem writeXout_busy (n : Byte) : (writeXout n s).busy = s.busy := rfl
@[simp] theorem writeXout_fatal (n : Byte) : (writeXout n s).fatal = s.fatal := rfl
@[simp] theorem writeXout_status (n : Byte) : (writeXout n s).status = s.status := rfl
@[simp] theorem writeXout_failidx (n : Byte) : (writeXout n s).failidx = s.failidx := rfl
@[simp] theorem writeXout_cv (n : Byte) : (writeXout n s).cv = s.cv := rfl
@[simp] theorem writeXout_lout (n : Byte) : (writeXout n s).lout = s.lout := rfl
@[simp] theorem writeXout_loutValid (n : Byte) : (writeXout n s).loutValid = s.loutValid := rfl
@[simp] theorem writeXout_plan (n : Byte) : (writeXout n s).plan = s.plan := rfl
@[simp] theorem writeXout_k (n : Byte) : (writeXout n s).k = s.k := rfl
@[simp] theorem writeXout_hist (n : Byte) : (writeXout n s).hist = s.hist := rfl
@[simp] theorem writeXout_disp (n : Byte) : (writeXout n s).disp = s.disp := rfl
@[simp] theorem writeXout_inbox (n : Byte) : (writeXout n s).inbox = s.inbox := rfl
@[simp] theorem writeXout_replies (n : Byte) : (writeXout n s).replies = s.replies := rfl
@[simp] theorem writeXout_draws (n : Byte) : (writeXout n s).draws = s.draws := rfl
@[simp] theorem writeXout_lastRead (n : Byte) : (writeXout n s).lastRead = s.lastRead := rfl
@[simp] theorem writeXout_xout (n : Byte) : (writeXout n s).xout = BitVec.ofInt 32 (centerColumn n) := rfl
@[simp] theorem writeXout_xoutValid (n : Byte) : (writeXout n s).xoutValid = true := rfl

/-! ### `acceptEmitting` -/

@[simp] theorem acceptEmitting_cfg (flags : Cv) (p : List PlanEntry) : (acceptEmitting flags p s).cfg = s.cfg := by unfold acceptEmitting; split <;> [rfl; (split <;> simp)]
@[simp] theorem acceptEmitting_req (flags : Cv) (p : List PlanEntry) : (acceptEmitting flags p s).req = s.req := by unfold acceptEmitting; split <;> [rfl; (split <;> simp)]
@[simp] theorem acceptEmitting_txt (flags : Cv) (p : List PlanEntry) : (acceptEmitting flags p s).txt = s.txt := by unfold acceptEmitting; split <;> [rfl; (split <;> simp)]
@[simp] theorem acceptEmitting_fatal (flags : Cv) (p : List PlanEntry) : (acceptEmitting flags p s).fatal = s.fatal := by unfold acceptEmitting; split <;> [rfl; (split <;> simp)]
@[simp] theorem acceptEmitting_failidx (flags : Cv) (p : List PlanEntry) : (acceptEmitting flags p s).failidx = s.failidx := by unfold acceptEmitting; split <;> [rfl; (split <;> simp)]
@[simp] theorem acceptEmitting_lout (flags : Cv) (p : List PlanEntry) : (acceptEmitting flags p s).lout = s.lout := by unfold acceptEmitting; split <;> [rfl; (split <;> simp)]
@[simp] theorem acceptEmitting_loutValid (flags : Cv) (p : List PlanEntry) : (acceptEmitting flags p s).loutValid = s.loutValid := by unfold acceptEmitting; split <;> [rfl; (split <;> simp)]
@[simp] theorem acceptEmitting_xout (flags : Cv) (p : List PlanEntry) : (acceptEmitting flags p s).xout = s.xout := by unfold acceptEmitting; split <;> [rfl; (split <;> simp)]
@[simp] theorem acceptEmitting_xoutValid (flags : Cv) (p : List PlanEntry) : (acceptEmitting flags p s).xoutValid = s.xoutValid := by unfold acceptEmitting; split <;> [rfl; (split <;> simp)]
@[simp] theorem acceptEmitting_hist (flags : Cv) (p : List PlanEntry) : (acceptEmitting flags p s).hist = s.hist := by unfold acceptEmitting; split <;> [rfl; (split <;> simp)]
@[simp] theorem acceptEmitting_disp (flags : Cv) (p : List PlanEntry) : (acceptEmitting flags p s).disp = s.disp := by unfold acceptEmitting; split <;> [rfl; (split <;> simp)]
@[simp] theorem acceptEmitting_inbox (flags : Cv) (p : List PlanEntry) : (acceptEmitting flags p s).inbox = s.inbox := by unfold acceptEmitting; split <;> [rfl; (split <;> simp)]
@[simp] theorem acceptEmitting_replies (flags : Cv) (p : List PlanEntry) : (acceptEmitting flags p s).replies = s.replies := by unfold acceptEmitting; split <;> [rfl; (split <;> simp)]
@[simp] theorem acceptEmitting_draws (flags : Cv) (p : List PlanEntry) : (acceptEmitting flags p s).draws = s.draws := by unfold acceptEmitting; split <;> [rfl; (split <;> simp)]
@[simp] theorem acceptEmitting_lastRead (flags : Cv) (p : List PlanEntry) : (acceptEmitting flags p s).lastRead = s.lastRead := by unfold acceptEmitting; split <;> [rfl; (split <;> simp)]

/-! ### `emitEntry` -/

@[simp] theorem emitEntry_cfg (e : PlanEntry) : (emitEntry e s).cfg = s.cfg := by unfold emitEntry; split <;> simp
@[simp] theorem emitEntry_req (e : PlanEntry) : (emitEntry e s).req = s.req := by unfold emitEntry; split <;> simp
@[simp] theorem emitEntry_txt (e : PlanEntry) : (emitEntry e s).txt = s.txt := by unfold emitEntry; split <;> simp
@[simp] theorem emitEntry_fatal (e : PlanEntry) : (emitEntry e s).fatal = s.fatal := by unfold emitEntry; split <;> simp
@[simp] theorem emitEntry_cv (e : PlanEntry) : (emitEntry e s).cv = s.cv := by unfold emitEntry; split <;> simp
@[simp] theorem emitEntry_lout (e : PlanEntry) : (emitEntry e s).lout = s.lout := by unfold emitEntry; split <;> simp
@[simp] theorem emitEntry_loutValid (e : PlanEntry) : (emitEntry e s).loutValid = s.loutValid := by unfold emitEntry; split <;> simp
@[simp] theorem emitEntry_xout (e : PlanEntry) : (emitEntry e s).xout = s.xout := by unfold emitEntry; split <;> simp
@[simp] theorem emitEntry_xoutValid (e : PlanEntry) : (emitEntry e s).xoutValid = s.xoutValid := by unfold emitEntry; split <;> simp
@[simp] theorem emitEntry_plan (e : PlanEntry) : (emitEntry e s).plan = s.plan := by unfold emitEntry; split <;> simp
@[simp] theorem emitEntry_inbox (e : PlanEntry) : (emitEntry e s).inbox = s.inbox := by unfold emitEntry; split <;> simp
@[simp] theorem emitEntry_lastRead (e : PlanEntry) : (emitEntry e s).lastRead = s.lastRead := by unfold emitEntry; split <;> simp

/-! ### `hostReset` -/

@[simp] theorem hostReset_cfg (link : Link) : (hostReset link s).cfg = s.cfg := rfl
@[simp] theorem hostReset_req (link : Link) : (hostReset link s).req = 0 := rfl
@[simp] theorem hostReset_txt (link : Link) : (hostReset link s).txt = [] := rfl
@[simp] theorem hostReset_busy (link : Link) : (hostReset link s).busy = false := rfl
@[simp] theorem hostReset_fatal (link : Link) : (hostReset link s).fatal = decide (link = .openFail) := rfl
@[simp] theorem hostReset_status (link : Link) : (hostReset link s).status = .ok := rfl
@[simp] theorem hostReset_failidx (link : Link) : (hostReset link s).failidx = 0 := rfl
@[simp] theorem hostReset_cv (link : Link) : (hostReset link s).cv = ⟨false, false, false⟩ := rfl
@[simp] theorem hostReset_loutValid (link : Link) : (hostReset link s).loutValid = false := rfl
@[simp] theorem hostReset_xoutValid (link : Link) : (hostReset link s).xoutValid = false := rfl
@[simp] theorem hostReset_plan (link : Link) : (hostReset link s).plan = [] := rfl
@[simp] theorem hostReset_k (link : Link) : (hostReset link s).k = 0 := rfl
@[simp] theorem hostReset_hist (link : Link) : (hostReset link s).hist = [] := rfl
@[simp] theorem hostReset_disp (link : Link) : (hostReset link s).disp = Disp.reset := rfl
@[simp] theorem hostReset_inbox (link : Link) : (hostReset link s).inbox = s.inbox := rfl
@[simp] theorem hostReset_replies (link : Link) : (hostReset link s).replies = s.replies := rfl
@[simp] theorem hostReset_draws (link : Link) : (hostReset link s).draws = s.draws := rfl
@[simp] theorem hostReset_lastRead (link : Link) : (hostReset link s).lastRead = s.lastRead := rfl

end Sys2Proof.Machine
end

