-- ==== Sys2Proof/Laws/Ops.lean ====
section
/-! SUPPORT. The spec lemmas of the shared operations: everything Accept, Emit and a fetched frame can do, said once. -/

namespace Sys2Proof.Machine

/-! ### Accept -/

theorem acceptEmitting_of_busy {s : State} (h : s.busy = true) (flags : Cv) (p : List PlanEntry) :
    acceptEmitting flags p s = s := by
  simp [acceptEmitting, h]

theorem acceptEmitting_of_fatal {s : State} (hb : s.busy = false) (hf : s.fatal = true) (flags : Cv) (p : List PlanEntry) :
    acceptEmitting flags p s = takeException .openError s := by
  simp [acceptEmitting, hb, hf]

theorem acceptEmitting_of_idle {s : State} (hb : s.busy = false) (hf : s.fatal = false) (flags : Cv) (p : List PlanEntry) :
    acceptEmitting flags p s = startPlan p { s with cv := s.cv.or flags } := by
  simp [acceptEmitting, hb, hf]

theorem acceptOutput_of_busy {s : State} (h : s.busy = true) (out : State → State) : acceptOutput out s = s := by
  simp [acceptOutput, h]

theorem acceptOutput_of_idle {s : State} (h : s.busy = false) (out : State → State) :
    acceptOutput out s = startPlan [] (out s) := by
  simp [acceptOutput, h]

@[simp] theorem Cv.or_none (a : Cv) : a.or Cv.none = a := by simp [Cv.or, Cv.none]

/-- A plan that is not empty starts: the request is in progress (R35). -/
theorem startPlan_of_length_pos {p : List PlanEntry} (h : 0 < p.length) (s : State) :
    startPlan p s = { s with plan := p, k := 0, busy := true } := by
  cases p with
  | nil => simp at h
  | cons e rest => rfl

/-- A request that emits frames, as `exec` runs it: RENDER needs its text, and the rest is one Accept over its flags and its plan. -/
theorem exec_emitting {i : Instr} (h : emitsFrames i = true) {s : State} (ht : textReady s i) :
    exec i s = .next (acceptEmitting (contractFlags i) (planOf s.cfg s.txt i) s) := by
  cases i with
  | render x page n => simp [exec, execRender, textReady] at ht ⊢; simp [ht, contractFlags, planOf, latchedText]
  | cmd b => rfl
  | data b => rfl
  | init => rfl
  | setcur col page => rfl
  | clear => rfl
  | _ => cases h

/-- A request without its text (R72). -/
theorem exec_no_text {i : Instr} {s : State} (ht : ¬ textReady s i) : exec i s = .refused .malformedText := by
  cases i <;> simp_all [textReady, exec, execRender]

/-! ### Emit -/

theorem currentEntry_eq_some {s : State} {e : PlanEntry} :
    currentEntry s = some e ↔ s.busy = true ∧ s.plan[s.k.toNat]? = some e := by
  unfold currentEntry; split <;> simp_all

theorem currentEntry_idle {s : State} (h : s.busy = false) : currentEntry s = none := by simp [currentEntry, h]

theorem emitWhen_next {s : State} {e : PlanEntry} {wanted : PlanEntry → Bool} (h : currentEntry s = some e) (hw : wanted e = true) :
    emitWhen wanted s = .next (emitEntry e s) := by
  simp [emitWhen, h, hw]

theorem emitWhen_other {s : State} {e : PlanEntry} {wanted : PlanEntry → Bool} (h : currentEntry s = some e) (hw : wanted e = false) :
    emitWhen wanted s = .refused .emitNotEnabled := by
  simp [emitWhen, h, hw]

theorem emitWhen_idle {s : State} (h : s.busy = false) (wanted : PlanEntry → Bool) :
    emitWhen wanted s = .refused .emitNotEnabled := by
  simp [emitWhen, currentEntry_idle h]

/-- While the block is idle no frame has an Emit step: what `exec` answers next is a request's (R36). -/
theorem isRequest_of_idle_next {i : Instr} {s t : State} (hb : s.busy = false) (h : exec i s = .next t) : isRequest i = true := by
  cases i with
  | frameCmd b => exact absurd ((emitWhen_idle hb _).symm.trans h) (by simp)
  | frameData b => exact absurd ((emitWhen_idle hb _).symm.trans h) (by simp)
  | ctlPageSelect b => exact absurd ((emitWhen_idle hb _).symm.trans h) (by simp)
  | ctlColLo b => exact absurd ((emitWhen_idle hb _).symm.trans h) (by simp)
  | ctlColHi b => exact absurd ((emitWhen_idle hb _).symm.trans h) (by simp)
  | _ => rfl

theorem emitEntry_ok {s : State} (h : nextReply s = .ok) (e : PlanEntry) :
    emitEntry e s = advance (recordWrite e .ok (consumeReply s)) := by
  simp [emitEntry, h]

theorem emitEntry_err {s : State} (h : nextReply s = .err) (e : PlanEntry) :
    emitEntry e s = takeException (.writeError s.k) (recordWrite e .err (consumeReply s)) := by
  simp [emitEntry, h]

theorem emitEntry_never {s : State} (h : nextReply s = .never) (e : PlanEntry) : emitEntry e s = s := by
  simp [emitEntry, h]

theorem nextReply_cons {s : State} {r : TransportReply} {rest : List TransportReply} (h : s.replies = r :: rest) : nextReply s = r := by
  simp [nextReply, h]

theorem consumeReply_replies {s : State} {r : TransportReply} {rest : List TransportReply} (h : s.replies = r :: rest) :
    (consumeReply s).replies = rest := by
  simp [consumeReply, h]

/-- `advance` in one record: `K` counts, and the last frame completes the request with `OK` (R36). -/
theorem advance_eq (s : State) : advance s = { s with
    k := s.k + 1, status := if (s.k + 1).toNat = s.plan.length then .ok else s.status,
    busy := if (s.k + 1).toNat = s.plan.length then false else s.busy } := by
  unfold advance; split <;> simp_all

/-- What an Emit step did, by the reply (R36, R38). -/
theorem emitEntry_cases (e : PlanEntry) (s : State) :
    (nextReply s = .ok ∧ emitEntry e s = advance (recordWrite e .ok (consumeReply s))) ∨
    (nextReply s = .err ∧ emitEntry e s = takeException (.writeError s.k) (recordWrite e .err (consumeReply s))) ∨
    (nextReply s = .never ∧ emitEntry e s = s) := by
  cases h : nextReply s with
  | ok => exact .inl ⟨rfl, emitEntry_ok h e⟩
  | err => exact .inr (.inl ⟨rfl, emitEntry_err h e⟩)
  | never => exact .inr (.inr ⟨rfl, emitEntry_never h e⟩)

/-! ### Fetching a frame -/

theorem decodeFrame_number_cmd (b : Byte) : decodeFrame (Frame.number ⟨prefixCmd, b⟩) = .ok (.frameCmd b) := by
  simp [decodeFrame, Frame.number]

theorem decodeFrame_number_data (b : Byte) : decodeFrame (Frame.number ⟨prefixData, b⟩) = .ok (.frameData b) := by
  have : (prefixData = prefixCmd) = False := by simp [prefixData, prefixCmd]
  simp [decodeFrame, Frame.number, this]

/-- A frame number that decodes is the frame whose Emit step it names. -/
theorem exec_of_decodeFrame {s : State} {e : PlanEntry} {i : Instr} (h : currentEntry s = some e)
    (hd : decodeFrame e.frame.number = .ok i) : exec i s = .next (emitEntry e s) := by
  obtain ⟨⟨control, payload⟩, tag⟩ := e
  simp only [decodeFrame, Frame.number, frameNumber_prefix, frameNumber_payload] at hd
  split at hd
  · rename_i hc
    obtain rfl := Except.ok.inj hd
    exact emitWhen_next h (by simp [hc, cmdFrame, encodeFrame])
  · split at hd
    · rename_i hc
      obtain rfl := Except.ok.inj hd
      exact emitWhen_next h (by simp [hc, datFrame, encodeFrame])
    · cases hd

/-- The instruction a plan entry decodes to is the Emit step of that entry. -/
theorem exec_of_decodeEntry {s : State} {e : PlanEntry} {i : Instr} (h : currentEntry s = some e)
    (hd : decodeEntry s.cfg e = .ok i) : exec i s = .next (emitEntry e s) := by
  obtain ⟨⟨control, payload⟩, tag⟩ := e
  cases tag with
  | init last => exact exec_of_decodeFrame h hd
  | data => exact exec_of_decodeFrame h hd
  | rawCmd => exact exec_of_decodeFrame h hd
  | addr slot col page =>
    simp only [decodeEntry, decode] at hd
    split at hd
    · rename_i j hj
      split at hd
      · rename_i hc
        obtain rfl := Except.ok.inj hd
        have key : ∀ base : Byte, base + (payload - base) = payload := fun base => by
          rw [BitVec.add_comm, BitVec.sub_add_cancel]
        cases slot <;> simp only [decodeCursorByte] at hj <;> split at hj <;> cases hj <;>
          exact emitWhen_next h (by simp [isCursorEntry, cmdFrame, encodeFrame, hc, key])
      · exact exec_of_decodeFrame h hd
    · exact exec_of_decodeFrame h hd

/-- A frame that GRL makes always decodes (R77, R93). -/
theorem decodeEntry_of_framed {cfg : Config} {e : PlanEntry} (h : framedAs cfg e.frame e.tag) :
    ∃ i, decodeEntry cfg e = .ok i := by
  obtain ⟨⟨control, payload⟩, tag⟩ := e
  cases tag with
  | init last => cases h; exact ⟨_, decodeFrame_number_cmd payload⟩
  | data => cases h; exact ⟨_, decodeFrame_number_data payload⟩
  | rawCmd => cases h; exact ⟨_, decodeFrame_number_cmd payload⟩
  | addr slot col page =>
    simp only [framedAs, cmdFrame, encodeFrame] at h
    obtain ⟨rfl, -⟩ := Frame.mk.inj h
    simp only [decodeEntry, decode]
    split
    · rename_i i hi; exact ⟨i, by simp⟩
    · exact ⟨_, decodeFrame_number_cmd payload⟩

/-! ### The invariant's entry and index -/

/-- While `BUSY = 1` there is a current frame (10_state.md R20). -/
theorem State.Inv.current {s : State} (hs : s.Inv) (hb : s.busy = true) : ∃ e, s.plan[s.k.toNat]? = some e :=
  ⟨_, List.getElem?_eq_getElem (hs.busy_left hb)⟩

/-- `K` never wraps (R26). -/
theorem State.Inv.k_succ {s : State} (hs : s.Inv) (hb : s.busy = true) : (s.k + 1).toNat = s.k.toNat + 1 := by
  have h1 := hs.busy_left hb
  have h2 := hs.plan_le
  have h3 : (1 : BitVec 16).toNat = 1 := rfl
  rw [BitVec.toNat_add, h3]
  omega

end Sys2Proof.Machine
end

