-- ==== Sys2Proof/Laws/Step.lean ====
section
/-! SUPPORT. Everything one step can do, said once. -/

namespace Sys2Proof.Machine

/-- What a request word decodes to is a request (30_encoding.md R73). -/
theorem decodeRequest_isRequest {w : BitVec 64} {i : Instr} (h : decodeRequest w = .ok i) : isRequest i = true := by
  unfold decodeRequest at h
  repeat' split at h
  all_goals first
    | (cases h; done)
    | (injection h with h; subst h; rfl)

/-- The operation and length fields of a word that decodes to RENDER (30_encoding.md R71). -/
theorem decodeRequest_render {w : BitVec 64} {x : BitVec 32} {page n : Byte} (h : decodeRequest w = .ok (.render x page n)) :
    reqOp w = 0x6 ∧ n = reqN w := by
  unfold decodeRequest at h
  repeat' split at h
  all_goals first
    | (cases h; done)
    | (simp only [Except.ok.injEq, Instr.render.injEq] at h; exact ⟨by assumption, h.2.2.symm⟩)

/-- The ways a step answers a next state. -/
inductive StepCase (s t : State) : Prop where
  /-- The block is idle and no request is presented. -/
  | idle (rest : List HostEvent) (busy : s.busy = false) (due : (s.inbox = [] ∧ rest = []) ∨ s.inbox = .wait :: rest)
      (result : t = { s with inbox := rest })
  /-- The block emits `PLAN[K]` (10_state.md R36). -/
  | emit (rest : List HostEvent) (e : PlanEntry) (busy : s.busy = true) (entry : s.plan[s.k.toNat]? = some e)
      (due : s.inbox = rest ∨ s.inbox = .wait :: rest) (result : t = emitEntry e { s with inbox := rest })
  /-- A request word that is not `Legal` (R35, 60_exceptions.md R117). -/
  | illegal (w : BitVec 64) (text : List Byte) (rest : List HostEvent) (busy : s.busy = false)
      (due : s.inbox = .request w text :: rest) (result : t = takeException .illegalRequest (latchRequest w text { s with inbox := rest }))
  /-- An accepted request that writes to the transport (R35). -/
  | emitting (w : BitVec 64) (text : List Byte) (rest : List HostEvent) (i : Instr) (busy : s.busy = false)
      (due : s.inbox = .request w text :: rest) (decoded : decodeRequest w = .ok i) (emits : emitsFrames i = true)
      (result : t = acceptEmitting (contractFlags i) (planOf s.cfg (latchRequest w text s).txt i) (latchRequest w text { s with inbox := rest }))
  /-- An accepted LOOKUP (40_glyph_rom.md R91). -/
  | lookup (w : BitVec 64) (text : List Byte) (rest : List HostEvent) (c : Byte) (busy : s.busy = false)
      (due : s.inbox = .request w text :: rest) (decoded : decodeRequest w = .ok (.lookup c))
      (result : t = startPlan [] (writeLout c (latchRequest w text { s with inbox := rest })))
  /-- An accepted CENTER (44_frame_renderer.md R112). -/
  | center (w : BitVec 64) (text : List Byte) (rest : List HostEvent) (n : Byte) (busy : s.busy = false)
      (due : s.inbox = .request w text :: rest) (decoded : decodeRequest w = .ok (.center n))
      (result : t = startPlan [] (writeXout n (latchRequest w text { s with inbox := rest })))
  /-- A host read of an output (R27 to R29). -/
  | read (event : HostEvent) (rest : List HostEvent) (d : HostDatum) (due : s.inbox = event :: rest)
      (isRead : event = .readStatus ∨ event = .readLout ∨ event = .readXout)
      (result : t = { s with inbox := rest, lastRead := some d })
  /-- Reset (70_reset_and_hazards.md R132). -/
  | reset (link : Link) (rest : List HostEvent) (due : s.inbox = .reset link :: rest)
      (result : t = hostReset link { s with inbox := rest })

theorem blockStep_next {s t : State} (h : blockStep s = .next t) :
    (s.busy = false ∧ t = s) ∨ ∃ e, s.busy = true ∧ s.plan[s.k.toNat]? = some e ∧ t = emitEntry e s := by
  unfold blockStep at h
  split at h
  case isFalse hb => exact .inl ⟨by simpa using hb, (by injection h with h; exact h.symm)⟩
  case isTrue hb =>
    split at h
    case h_2 => cases h
    case h_1 e he =>
      split at h
      case h_2 => cases h
      case h_1 i hi =>
        rw [exec_of_decodeEntry he hi] at h
        injection h with h
        exact .inr ⟨e, hb, (currentEntry_eq_some.mp he).2, h.symm⟩

/-- A fetched frame is run by `exec` (R36). -/
theorem blockStep_eq_exec {s : State} {e : PlanEntry} {i : Instr} (h : currentEntry s = some e) (hd : decodeEntry s.cfg e = .ok i) :
    blockStep s = exec i s := by
  have hb := (currentEntry_eq_some.mp h).1
  simp only [blockStep, hb, if_true, h, hd]

/-- The next state of Accept on a legal word, by the kind of its request. -/
theorem exec_request_next {i : Instr} {s t : State} (hi : isRequest i = true) (hb : s.busy = false) (h : exec i s = .next t) :
    (emitsFrames i = true ∧ t = acceptEmitting (contractFlags i) (planOf s.cfg s.txt i) s) ∨
    (∃ c, i = .lookup c ∧ t = startPlan [] (writeLout c s)) ∨ (∃ n, i = .center n ∧ t = startPlan [] (writeXout n s)) := by
  by_cases he : emitsFrames i = true
  · by_cases ht : textReady s i
    · rw [exec_emitting he ht] at h
      injection h with h
      exact .inl ⟨he, h.symm⟩
    · rw [exec_no_text ht] at h; cases h
  · cases i with
    | lookup c =>
      injection h with h
      exact .inr (.inl ⟨c, rfl, by rw [← h, acceptOutput_of_idle hb]⟩)
    | center n =>
      injection h with h
      exact .inr (.inr ⟨n, rfl, by rw [← h, acceptOutput_of_idle hb]⟩)
    | _ => first | exact absurd rfl he | cases hi

/-- Everything a step can do. -/
theorem step_cases {s t : State} (h : step s = .next t) : StepCase s t := by
  unfold step takeStep at h
  split at h
  case h_1 hin =>
    rcases blockStep_next h with ⟨hb, rfl⟩ | ⟨e, hb, he, rfl⟩
    · exact .idle [] hb (.inl ⟨hin, rfl⟩) (by rw [← hin])
    · exact .emit [] e hb he (.inl hin) (by rw [← hin])
  case h_2 w text rest hin =>
    split at h
    case isTrue hb =>
      rcases blockStep_next h with ⟨hb', -⟩ | ⟨e, hb, he, rfl⟩
      · rw [hb] at hb'; cases hb'
      · exact .emit s.inbox e hb he (.inl rfl) rfl
    case isFalse hb =>
      have hb : s.busy = false := by simpa using hb
      simp only [acceptRequest, decode] at h
      split at h
      case h_2 => injection h with h; exact .illegal w text rest hb hin h.symm
      case h_1 i hi =>
        rcases exec_request_next (s := latchRequest w text { s with inbox := rest }) (decodeRequest_isRequest hi) hb h with ⟨he, rfl⟩ | ⟨c, rfl, rfl⟩ | ⟨n, rfl, rfl⟩
        · exact .emitting w text rest i hb hin hi he rfl
        · exact .lookup w text rest c hb hin hi rfl
        · exact .center w text rest n hb hin hi rfl
  case h_3 rest hin => injection h with h; exact .read _ rest _ hin (.inl rfl) h.symm
  case h_4 rest hin =>
    unfold readLoutReg at h
    split at h
    · injection h with h; exact .read _ rest _ hin (.inr (.inl rfl)) h.symm
    · cases h
  case h_5 rest hin =>
    unfold readXoutReg at h
    split at h
    · injection h with h; exact .read _ rest _ hin (.inr (.inr rfl)) h.symm
    · cases h
  case h_6 rest hin =>
    rcases blockStep_next h with ⟨hb, rfl⟩ | ⟨e, hb, he, rfl⟩
    · exact .idle rest hb (.inr hin) rfl
    · exact .emit rest e hb he (.inr hin) rfl
  case h_7 link rest hin => injection h with h; exact .reset link rest hin h.symm

/-- While `BUSY = 1` and the host is quiet, a step emits the current frame. -/
theorem step_emits {s : State} {e : PlanEntry} (hs : s.Inv) (hb : s.busy = true) (hin : s.inbox = [])
    (he : s.plan[s.k.toNat]? = some e) : step s = .next (emitEntry e s) := by
  have hcur := currentEntry_eq_some.mpr ⟨hb, he⟩
  obtain ⟨i, hi⟩ := decodeEntry_of_framed (hs.plan_framed e (List.mem_of_getElem? he))
  simp only [step, takeStep, hin, blockStep_eq_exec hcur hi, exec_of_decodeEntry hcur hi]

end Sys2Proof.Machine
end

