-- ==== Sys2Proof/Laws/Invariant.lean ====
section
/-! SUPPORT. How the shared updates carry the invariant. -/

namespace Sys2Proof.Machine

/-- The invariant looks at eight elements of the state only. -/
theorem State.Inv.transfer {s t : State} (hs : s.Inv) (hcfg : t.cfg = s.cfg) (hplan : t.plan = s.plan) (hk : t.k = s.k)
    (hbusy : t.busy = true → s.busy = true) (hfatal : t.fatal = s.fatal) (hhist : t.hist = s.hist) (hdisp : t.disp = s.disp)
    (htxt : t.txt.length ≤ 255) : t.Inv where
  cfg_wf := hcfg ▸ hs.cfg_wf
  plan_le := hplan ▸ hs.plan_le
  k_le := by rw [hplan, hk]; exact hs.k_le
  busy_left := fun h => by rw [hplan, hk]; exact hs.busy_left (hbusy h)
  plan_framed := by rw [hplan, hcfg]; exact hs.plan_framed
  hist_framed := by rw [hhist, hcfg]; exact hs.hist_framed
  txt_le := htxt
  fatal_silent := fun h => by
    obtain ⟨h1, h2⟩ := hs.fatal_silent (hfatal ▸ h)
    refine ⟨?_, hhist ▸ h2⟩
    cases hb : t.busy with
    | false => rfl
    | true => rw [hbusy hb] at h1; cases h1
  disp_hist := by rw [hdisp, hhist]; exact hs.disp_hist
  ram_wf := hdisp ▸ hs.ram_wf

theorem State.Inv.with_inbox {s : State} (hs : s.Inv) (rest : List HostEvent) : ({ s with inbox := rest } : State).Inv :=
  hs.transfer rfl rfl rfl id rfl rfl rfl hs.txt_le

theorem State.Inv.latchRequest {s : State} (hs : s.Inv) (w : BitVec 64) (text : List Byte) : (latchRequest w text s).Inv := by
  refine hs.transfer rfl rfl rfl id rfl rfl rfl ?_
  have := (reqN w).isLt
  rw [latchRequest_txt]
  split
  · rw [List.length_take]; omega
  · simp

theorem State.Inv.takeException {s : State} (hs : s.Inv) (e : GrlException) : (takeException e s).Inv :=
  hs.transfer (by simp) (by simp) (by simp) (by simp) (by simp) (by simp) (by simp) (by simpa using hs.txt_le)

/-- While `FATAL = 1` nothing is in progress (10_state.md R21). -/
theorem State.Inv.not_fatal {s : State} (hs : s.Inv) (hb : s.busy = true) : s.fatal = false := by
  cases hf : s.fatal with
  | false => rfl
  | true => rw [(hs.fatal_silent hf).1] at hb; cases hb

/-- Starting a plan of GRL's own frames, none while `FATAL`. -/
theorem State.Inv.startPlan {s : State} (hs : s.Inv) {p : List PlanEntry} (hb : s.busy = false) (hf : s.fatal = true → p = [])
    (hp : p.length ≤ 65535) (hfr : ∀ e ∈ p, framedAs s.cfg e.frame e.tag) : (startPlan p s).Inv where
  cfg_wf := by simpa using hs.cfg_wf
  plan_le := by simpa using hp
  k_le := by simp
  busy_left := by cases p <;> simp [hb]
  plan_framed := by simpa using hfr
  hist_framed := by simpa using hs.hist_framed
  txt_le := by simpa using hs.txt_le
  fatal_silent := fun h => by
    rw [startPlan_fatal] at h
    rw [hf h]
    exact ⟨hb, (hs.fatal_silent h).2⟩
  disp_hist := by rw [startPlan_disp, startPlan_hist]; exact hs.disp_hist
  ram_wf := by rw [startPlan_disp]; exact hs.ram_wf

/-- Recording an answered write of the current frame: the history and the display stay in step. -/
theorem State.Inv.recordWrite {s : State} (hs : s.Inv) (hb : s.busy = true) {e : PlanEntry} (he : s.plan[s.k.toNat]? = some e)
    (r : Answer) : (recordWrite e r s).Inv where
  cfg_wf := hs.cfg_wf
  plan_le := hs.plan_le
  k_le := hs.k_le
  busy_left := hs.busy_left
  plan_framed := hs.plan_framed
  hist_framed := by
    intro e' he'
    rw [recordWrite_hist, List.mem_append, List.mem_singleton] at he'
    rcases he' with he' | rfl
    · exact hs.hist_framed e' he'
    · exact hs.plan_framed e (List.mem_of_getElem? he)
  txt_le := hs.txt_le
  fatal_silent := fun h => by rw [recordWrite_fatal, hs.not_fatal hb] at h; cases h
  disp_hist := by rw [recordWrite_hist, recordWrite_disp, hs.disp_hist, Disp.ofHist_append]
  ram_wf := dispStep_ram_wf hs.ram_wf _

theorem State.Inv.consumeReply {s : State} (hs : s.Inv) : (consumeReply s).Inv :=
  hs.transfer (by simp) (by simp) (by simp) (by simp) (by simp) (by simp) (by simp) (by simpa using hs.txt_le)

/-- `K` advances inside the plan, and the request ends at the plan's end. -/
theorem State.Inv.advance {s : State} (hs : s.Inv) (hb : s.busy = true) : (advance s).Inv where
  cfg_wf := by simpa using hs.cfg_wf
  plan_le := by simpa using hs.plan_le
  k_le := by rw [advance_k, advance_plan, hs.k_succ hb]; exact hs.busy_left hb
  busy_left := fun h => by
    have h1 := hs.busy_left hb
    have h2 := hs.k_succ hb
    rw [advance_k, advance_plan]
    rw [advance_eq] at h
    simp only at h
    split at h
    · cases h
    · omega
  plan_framed := by simpa using hs.plan_framed
  hist_framed := by simpa using hs.hist_framed
  txt_le := by simpa using hs.txt_le
  fatal_silent := fun h => by rw [advance_fatal, hs.not_fatal hb] at h; cases h
  disp_hist := by rw [advance_disp, advance_hist]; exact hs.disp_hist
  ram_wf := by rw [advance_disp]; exact hs.ram_wf

/-- An Emit step keeps the invariant, whatever the transport answers. -/
theorem State.Inv.emitEntry {s : State} (hs : s.Inv) (hb : s.busy = true) {e : PlanEntry} (he : s.plan[s.k.toNat]? = some e) :
    (emitEntry e s).Inv := by
  have hrec : ∀ r, (Machine.recordWrite e r (Machine.consumeReply s)).Inv := fun r =>
    hs.consumeReply.recordWrite (by simpa using hb) (by simpa using he) r
  rcases emitEntry_cases e s with ⟨-, h⟩ | ⟨-, h⟩ | ⟨-, h⟩ <;> rw [h]
  · exact (hrec .ok).advance (by simpa using hb)
  · exact (hrec .err).takeException _
  · exact hs

end Sys2Proof.Machine
end

