-- ==== Sys2Proof/Laws/PerInstr.lean ====
section
/-! SUPPORT. One statement per instruction: its code word is a word of its row of spec/opcode_table.json. -/

namespace Sys2Proof

/-- A row's `match` and `mask`, copied from spec/opcode_table.json (for a request, on bits 7:0 of the word; for a cursor command byte,
with the default bases). -/
def tableRow : Instr → Nat × Nat
  | .lookup _ => (0x01, 0xFF)
  | .cmd _ => (0x02, 0xFF)
  | .data _ => (0x12, 0xFF)
  | .init => (0x03, 0xFF)
  | .setcur _ _ => (0x04, 0xFF)
  | .clear => (0x05, 0xFF)
  | .render _ _ _ => (0x06, 0xFF)
  | .center _ => (0x07, 0xFF)
  | .frameCmd _ => (0x0000, 0xFF00)
  | .frameData _ => (0x4000, 0xFF00)
  | .ctlPageSelect _ => (0xB0, 0xFC)
  | .ctlColLo _ => (0x00, 0xF0)
  | .ctlColHi _ => (0x10, 0xF0)

/-- The bits of a code word that the table's rows speak of. -/
def tableBits : CodeWord → Nat
  | .request w => (w.extractLsb' 0 8).toNat
  | .frame f => f.toNat
  | .cursorByte _ b => b.toNat

/-- The low byte of a request word (30_encoding.md R70). -/
theorem requestWord_low (low a b n : Byte) (x : BitVec 32) : (requestWord low a b n x).extractLsb' 0 8 = low := by
  apply BitVec.eq_of_getLsbD_eq
  intro i hi
  simp only [BitVec.getLsbD_extractLsb', requestWord_getLsbD]
  interval_cases i <;> simp

namespace Laws.TableRow

/-- The code word of a well-formed instruction matches its own row. -/
def Statement (i : Instr) : Prop :=
  i.wf = true → tableBits (encode Config.reference i) &&& (tableRow i).2 = (tableRow i).1

theorem lookup (c : Byte) : Statement (.lookup c) := fun _ => by
  simp only [encode, tableBits, tableRow, requestWord_low]; rfl

theorem cmd (b : Byte) : Statement (.cmd b) := fun _ => by
  simp only [encode, tableBits, tableRow, requestWord_low]; rfl

theorem data (b : Byte) : Statement (.data b) := fun _ => by
  simp only [encode, tableBits, tableRow, requestWord_low]; rfl

theorem init : Statement .init := fun _ => by
  simp only [encode, tableBits, tableRow, requestWord_low]; rfl

theorem setcur (col page : Byte) : Statement (.setcur col page) := fun _ => by
  simp only [encode, tableBits, tableRow, requestWord_low]; rfl

theorem clear : Statement .clear := fun _ => by
  simp only [encode, tableBits, tableRow, requestWord_low]; rfl

theorem render (x : BitVec 32) (page n : Byte) : Statement (.render x page n) := fun _ => by
  simp only [encode, tableBits, tableRow, requestWord_low]; rfl

theorem center (n : Byte) : Statement (.center n) := fun _ => by
  simp only [encode, tableBits, tableRow, requestWord_low]; rfl

theorem frameCmd (b : Byte) : Statement (.frameCmd b) := fun _ => by
  have h : ∀ v : Byte, (frameNumber prefixCmd v).toNat &&& 0xFF00 = 0x0000 := by decide
  exact h b

theorem frameData (b : Byte) : Statement (.frameData b) := fun _ => by
  have h : ∀ v : Byte, (frameNumber prefixData v).toNat &&& 0xFF00 = 0x4000 := by decide
  exact h b

theorem ctlPageSelect (page : Byte) : Statement (.ctlPageSelect page) := by
  have h : ∀ v : Byte, v.toNat ≤ 3 → ((0xB0 : Byte) + v).toNat &&& 0xFC = 0xB0 := by decide
  exact fun hw => h page (by simpa [Instr.wf] using hw)

theorem ctlColLo (nibble : Byte) : Statement (.ctlColLo nibble) := by
  have h : ∀ v : Byte, v.toNat ≤ 15 → ((0x00 : Byte) + v).toNat &&& 0xF0 = 0x00 := by decide
  exact fun hw => h nibble (by simpa [Instr.wf] using hw)

theorem ctlColHi (nibble : Byte) : Statement (.ctlColHi nibble) := by
  have h : ∀ v : Byte, v.toNat ≤ 15 → ((0x10 : Byte) + v).toNat &&& 0xF0 = 0x10 := by decide
  exact fun hw => h nibble (by simpa [Instr.wf] using hw)

end Laws.TableRow
end Sys2Proof
end

