-- ==== Sys2Proof/Laws/Run.lean ====
section
/-! SUPPORT. Runs of the block over the frames that are left of its plan. -/

namespace Sys2Proof.Machine

/-- A run that starts with a step. -/
theorem run_succ {s t : State} (h : step s = .next t) (n : Nat) : Sys2Proof.core.run (n + 1) s = Sys2Proof.core.run n t := by
  have h' : Sys2Proof.core.step s = .next t := h
  simp only [Host.Core.run, h']

/-- A run in two parts. -/
theorem run_add (m : Nat) : ∀ (s t : State) (n : Nat), Sys2Proof.core.run m s = .next t →
    Sys2Proof.core.run (m + n) s = Sys2Proof.core.run n t := by
  induction m with
  | zero => intro s t n h; simp only [Host.Core.run] at h; injection h with h; subst h; simp
  | succ m ih =>
    intro s t n h
    cases hs : step s with
    | next s' =>
      rw [run_succ hs] at h
      rw [show m + 1 + n = (m + n) + 1 by omega, run_succ hs]
      exact ih _ _ _ h
    | fault r =>
      have hs' : Sys2Proof.core.step s = .fault r := hs
      simp only [Host.Core.run, hs'] at h; cases h
    | refused r =>
      have hs' : Sys2Proof.core.step s = .refused r := hs
      simp only [Host.Core.run, hs'] at h; cases h

/-- What a delivered frame leaves (10_state.md R36). -/
theorem emitEntry_ok_eq {s : State} {later : List TransportReply} (h : s.replies = .ok :: later) (e : PlanEntry) :
    emitEntry e s = { s with
      replies := later, hist := s.hist ++ [⟨e.frame, .ok, e.tag⟩], disp := dispStep s.disp ⟨e.frame, .ok, e.tag⟩, k := s.k + 1,
      status := if (s.k + 1).toNat = s.plan.length then .ok else s.status,
      busy := if (s.k + 1).toNat = s.plan.length then false else s.busy } := by
  rw [emitEntry_ok (nextReply_cons h), advance_eq]
  simp [consumeReply, h, recordWrite]

/-- After `m` answered writes of a plan that has more frames to come: the state, whole. -/
theorem run_delivered (m : Nat) : ∀ (s : State) (later : List TransportReply), s.Inv → s.busy = true → s.inbox = [] →
    s.k.toNat + m < s.plan.length → s.replies = List.replicate m .ok ++ later →
    ∃ t : State, Sys2Proof.core.run m s = .next t ∧ t.Inv ∧ t = { s with
      replies := later, hist := s.hist ++ deliveredEntries ((restOfPlan s).take m),
      disp := (deliveredEntries ((restOfPlan s).take m)).foldl dispStep s.disp, k := t.k } ∧ t.k.toNat = s.k.toNat + m := by
  induction m with
  | zero =>
    intro s later hs _ _ _ hr
    have hr : s.replies = later := by simpa using hr
    exact ⟨s, rfl, hs, by subst hr; simp [deliveredEntries], rfl⟩
  | succ m ih =>
    intro s later hs hb hin hlt hr
    obtain ⟨e, he⟩ := hs.current hb
    have hr : s.replies = .ok :: (List.replicate m .ok ++ later) := by simpa [List.replicate_succ] using hr
    have hstep := step_emits hs hb hin he
    have hk := hs.k_succ hb
    have hne : ¬ (s.k + 1).toNat = s.plan.length := by omega
    have hinv := hs.emitEntry hb he
    rw [emitEntry_ok_eq hr, if_neg hne, if_neg hne] at hstep hinv
    obtain ⟨t, hrun, ht, heq, htk⟩ := ih _ later hinv hb hin (by simp only; omega) rfl
    have hdrop : restOfPlan s = e :: s.plan.drop (s.k + 1).toNat := by
      rw [restOfPlan, hk]; exact List.drop_eq_getElem?_toList_append.trans (by simp [he])
    refine ⟨t, by rw [run_succ hstep, hrun], ht, ?_, by simp only at htk; omega⟩
    have hrest : restOfPlan { s with
        replies := List.replicate m .ok ++ later, hist := s.hist ++ [⟨e.frame, .ok, e.tag⟩],
        disp := dispStep s.disp ⟨e.frame, .ok, e.tag⟩, k := s.k + 1 } = s.plan.drop (s.k + 1).toNat := rfl
    simp only [hrest] at heq
    rw [heq, hdrop]
    simp [deliveredEntries]

end Sys2Proof.Machine
end

