-- ==== Sys2Proof/Tests/Slice0.lean ====
section
/-! SUPPORT. The model's own tests: the vectors of 95_test_vectors.md, each one step on a small state, and a witness for the hypotheses
of every statement. -/

namespace Sys2Proof.Tests

open Sys2Proof.Machine

/-! ### Helpers -/

/-- A configuration with the default bases and `INIT_SEQ` of 93_implementation_defined.md I17, I18, and a glyph ROM whose byte `j` of
glyph `g` is `16 g + j`, standing for `Gg.j` of the vectors. -/
def cfg : Config where
  glyphRom := Vector.ofFn (fun g => Vector.ofFn (fun j => BitVec.ofNat 8 (16 * g.val + j.val)))
  initSeq := Config.referenceInitSeq
  pageBase := 0xB0
  colLoBase := 0x00
  colHiBase := 0x10
  devAddr := 0
  pixelBitOrder := .lsbTop

/-- After reset with `LINK = OPEN_OK`. -/
def idle : State := State.resetWith cfg .openOk

/-- After reset with `LINK = OPEN_FAIL`. -/
def fatal : State := State.resetWith cfg .openFail

/-- The host presents a request next. -/
def asked (s : State) (w : BitVec 64) (text : List Byte) : State := { s with inbox := [.request w text] }

/-- A plan in progress at index `k`, the transport about to answer `r`. -/
def emitting (plan : List PlanEntry) (k : BitVec 16) (r : TransportReply) : State :=
  { idle with busy := true, plan := plan, k := k, replies := [r] }

/-- After a complete INIT: the display is `READY`. -/
def ready : State := { idle with hist := deliveredEntries (planInit cfg), disp := Disp.forget .ready }

/-- One observation of the next state. -/
def seen {α : Type} (o : Host.Outcome State Fault Refusal) (f : State → α) : Option α :=
  match o with
  | .next s => some (f s)
  | .fault _ => none
  | .refused _ => none

def faulted (o : Host.Outcome State Fault Refusal) : Option Fault :=
  match o with
  | .next _ => none
  | .fault r => some r
  | .refused _ => none

def refusedBy (o : Host.Outcome State Fault Refusal) : Option Refusal :=
  match o with
  | .next _ => none
  | .fault _ => none
  | .refused r => some r

def decoded (c : CodeWord) : Option Instr := (decode cfg c).toOption

/-- The payload bytes of a plan's entries. -/
def payloads (plan : List PlanEntry) : List Byte := plan.map (fun e => e.frame.payload)

/-! ### WellFormed refuses each ill-formed term -/

theorem test_wf_page_select : (Instr.ctlPageSelect 3).wf = true ∧ (Instr.ctlPageSelect 4).wf = false := by decide
theorem test_wf_col_lo : (Instr.ctlColLo 15).wf = true ∧ (Instr.ctlColLo 16).wf = false := by decide
theorem test_wf_col_hi : (Instr.ctlColHi 15).wf = true ∧ (Instr.ctlColHi 16).wf = false := by decide

/-! ### Decoding: words written out from the spec's encodings -/

theorem test_decode_lookup : decoded (.request 0xDEADBEEF12343701) = some (.lookup 0x37) := by decide
theorem test_decode_send : decoded (.request 0x4002) = some (.cmd 0x40) ∧ decoded (.request 0x5512) = some (.data 0x55) := by decide
theorem test_decode_init : decoded (.request 0x03) = some .init := by decide
theorem test_decode_setcur : decoded (.request 0x005004) = some (.setcur 0 0x50) ∧ decoded (.request 0x7F0304) = some (.setcur 127 3) := by
  decide
theorem test_decode_clear : decoded (.request 0xFFFFFFFFFFFFFF05) = some .clear := by decide
theorem test_decode_render : decoded (.request 0xFFFFFFFF0D000106) = some (.render (-1) 1 13) := by decide
theorem test_decode_center : decoded (.request 0x0D0007) = some (.center 13) := by decide
theorem test_decode_frames : decoded (.frame 0x0040) = some (.frameCmd 0x40) ∧ decoded (.frame 0x4000) = some (.frameData 0x00) ∧
    decoded (.frame 0x8000) = none := by decide
theorem test_decode_cursor_bytes : decoded (.cursorByte .pageSelect 0xB3) = some (.ctlPageSelect 3) ∧
    decoded (.cursorByte .pageSelect 0xB4) = none ∧ decoded (.cursorByte .colLow 0x0F) = some (.ctlColLo 15) ∧
    decoded (.cursorByte .colHigh 0x17) = some (.ctlColHi 7) ∧ decoded (.cursorByte .colHigh 0x20) = none := by decide

/-- 95_test_vectors.md I1 to I9. -/
theorem test_decode_illegal : [0x00, 0x08, 0x0F, 0x11, 0x13, 0x15, 0x22, 0x82, 0xFF].all
    (fun b : BitVec 64 => decide (decoded (.request b) = none) && !legalRequest b) = true := by decide

/-- The rows of spec/opcode_table.json by their `match` words. -/
theorem test_table_words : [0x01, 0x02, 0x12, 0x03, 0x04, 0x05, 0x06, 0x07].map (decodeTableWord 8) =
    [some (.lookup 0), some (.cmd 0), some (.data 0), some .init, some (.setcur 0 0), some .clear, some (.render 0 0 0),
     some (.center 0)] := by decide

theorem test_table_frames : [decodeTableWord 16 0x00AE, decodeTableWord 16 0x40FF, decodeTableWord 8 0xB2, decodeTableWord 8 0x08,
    decodeTableWord 8 0x17] =
    [some (.frameCmd 0xAE), some (.frameData 0xFF), some (.ctlPageSelect 2), some (.ctlColLo 8), some (.ctlColHi 7)] := by decide

/-- Placed words run as the next step: the requests are latched, the frames are sent. -/
theorem test_placed_words_run :
    [0x01, 0x02, 0x12, 0x03, 0x04, 0x05, 0x06, 0x07].all
      (fun w => seen (step (State.reset.withFetchWord 8 w)) (fun t => t.req) == some (BitVec.ofNat 64 w)) = true ∧
    ([(16, 0x00AE), (16, 0x40FF), (8, 0xB2), (8, 0x08), (8, 0x17)] : List (Nat × Nat)).map
      (fun p => seen (step (State.reset.withFetchWord p.1 p.2)) (fun t => t.hist.map (fun h => h.frame))) =
      [some [⟨0x00, 0xAE⟩], some [⟨0x40, 0xFF⟩], some [⟨0x00, 0xB2⟩], some [⟨0x00, 0x08⟩], some [⟨0x00, 0x17⟩]] := by decide

/-! ### Requests, one Accept step each -/

/-- L4, and E1 for the fallback L6. -/
theorem test_lookup : seen (step (asked idle 0x3A01 [])) (fun t => (t.lout.toList, statusWord t)) =
    some ([0xA0, 0xA1, 0xA2, 0xA3, 0xA4, 0xA5, 0xA6, 0xA7, 0xA8, 0xA9], 0x00000080) ∧
    seen (step (asked idle 0x3B01 [])) (fun t => t.lout[9]) = some 0x09 := by decide

/-- L12: with `LINK = OPEN_FAIL`. -/
theorem test_lookup_fatal : seen (step (asked fatal 0x3701 [])) (fun t => (t.lout[0], statusWord t)) = some (0x70, 0x00000082) := by decide

/-- D3: a payload equal to the data prefix. -/
theorem test_cmd : seen (step (asked idle 0x4002 [])) (fun t => (t.plan, t.busy)) = some ([⟨⟨0x00, 0x40⟩, .rawCmd⟩], true) := by decide

/-- D7, and D9 with `LINK = OPEN_FAIL`. -/
theorem test_data : seen (step (asked idle 0x5512 [])) (fun t => t.plan) = some [⟨⟨0x40, 0x55⟩, .data⟩] ∧
    seen (step (asked fatal 0x1212 [])) (fun t => (t.hist, statusWord t)) = some ([], 0x0000000A) := by decide

/-- N1. -/
theorem test_init : seen (step (asked idle 0x03 [])) (fun t => payloads t.plan) =
    some [0xAE, 0xD5, 0x80, 0xA8, 0x1F, 0xD3, 0x00, 0x40, 0x8D, 0x14, 0x20, 0x00, 0xA1, 0xC8, 0xDA, 0x02, 0x81, 0x8F, 0xD9, 0xF1,
      0xDB, 0x40, 0xA4, 0xA6, 0xAF] := by decide

theorem test_init_tags : seen (step (asked idle 0x03 [])) (fun t => (t.plan[23]?.map (fun e => e.tag), t.plan[24]?.map (fun e => e.tag))) =
    some (some (.init false), some (.init true)) := by decide

/-- S10, with its `CV` bits while the request is in progress. -/
theorem test_setcur : seen (step (asked idle 0xFFFF04 [])) (fun t => (t.plan.map (fun e => e.frame), statusWord t)) =
    some ([⟨0x00, 0xAF⟩, ⟨0x00, 0x0F⟩, ⟨0x00, 0x1F⟩], 0x00000031) := by decide

/-- S5. -/
theorem test_setcur_legal : seen (step (asked idle 0x7F0304 [])) (fun t => (payloads t.plan, t.cv)) =
    some ([0xB3, 0x0F, 0x17], ⟨false, false, false⟩) := by decide

/-- C18, and C6, C14 of its plan. -/
theorem test_clear : seen (step (asked idle 0xFFFFFFFFFFFFFF05 [])) (fun t => (t.plan[131]?, t.plan[523]?, t.plan[524]?)) =
    some (some ⟨⟨0x00, 0xB1⟩, .addr .pageSelect 0 1⟩, some ⟨⟨0x40, 0x00⟩, .data⟩, none) := by decide +kernel

/-- R4. -/
theorem test_render : seen (step (asked idle 0xFFFFFFFF01000006 [0x31])) (fun t => (payloads t.plan, t.cv)) =
    some ([0xB0, 0x0F, 0x1F, 0x10, 0x11, 0x12, 0x13, 0x14, 0x15, 0x16, 0x17, 0x18, 0x19], ⟨true, false, false⟩) := by decide

/-- R14 (bytes past `N` are ignored) and R13. -/
theorem test_render_text : seen (step (asked idle 0x0000000005000006 [0x31, 0x32, 0x33, 0x34, 0x35, 0x36, 0x37, 0x38]))
      (fun t => (t.plan.length, t.txt)) = some (53, [0x31, 0x32, 0x33, 0x34, 0x35]) ∧
    refusedBy (step (asked idle 0x0000000003000006 [0x31, 0x32])) = some .malformedText := by decide

/-- X6. -/
theorem test_center : seen (step (asked idle 0xFF0007 [])) (fun t => (t.xout.toInt, t.xout, statusWord t)) =
    some (-1211, 0xFFFFFB45, 0x00000100) := by decide

/-- X7: with `LINK = OPEN_FAIL`. -/
theorem test_center_fatal : seen (step (asked fatal 0x080007 [])) (fun t => (t.xout, statusWord t)) = some (24, 0x00000102) := by decide

/-- I1, I11: an illegal word; the legality check comes before `FATAL`. -/
theorem test_illegal : seen (step (asked idle 0x00 [])) (fun t => (t.hist, statusWord t)) = some ([], 0x0000000C) ∧
    seen (step (asked fatal 0x13 [])) statusWord = some 0x0000000E := by decide

/-! ### Emit steps -/

/-- D8: the transport answers `ERR` to a raw command. -/
theorem test_frame_cmd : seen (exec (.frameCmd 0xAE) (emitting [⟨⟨0x00, 0xAE⟩, .rawCmd⟩] 0 .err))
    (fun t => (t.hist, statusWord t, t.disp.ctl)) = some ([⟨⟨0x00, 0xAE⟩, .err, .rawCmd⟩], 0x00000004, .unknown) := by decide

/-- D10: a data byte at cursor (5, 2) of a `READY` display. -/
theorem test_frame_data : seen (exec (.frameData 0x3C)
      { emitting [⟨⟨0x40, 0x3C⟩, .data⟩] 0 .ok with disp := ⟨.ready, some ⟨5, 2⟩, []⟩ })
    (fun t => (t.disp.byteAt ⟨5, 2⟩, t.disp.cur, statusWord t)) = some (some 0x3C, some ⟨6, 2⟩, 0x00000000) := by decide

/-- S11: `ERR` at frame 1 of a cursor setting. -/
theorem test_ctl_col_lo : seen (exec (.ctlColLo 8) (emitting (cursorFrames cfg 24 1) 1 .err)) (fun t => (t.k, statusWord t)) =
    some (1, 0x00010004) := by decide

/-- S12: the third frame sets the cursor. -/
theorem test_ctl_col_hi : seen (exec (.ctlColHi 1) { emitting (cursorFrames cfg 24 1) 2 .ok with disp := ⟨.ready, none, []⟩ })
    (fun t => (t.disp.cur, t.busy, statusWord t)) = some (some ⟨24, 1⟩, false, 0x00000000) := by decide

theorem test_ctl_page_select : seen (exec (.ctlPageSelect 3) (emitting (cursorFrames cfg 127 3) 0 .ok))
    (fun t => (t.hist.map (fun h => h.frame), t.k, t.busy)) = some ([⟨0x00, 0xB3⟩], 1, true) := by decide

/-- S13: column 128 loses the display. -/
theorem test_cursor_violation : (dispStep ⟨.ready, some ⟨0, 0⟩, [(5, 0xFF)]⟩ ⟨⟨0x00, 0x18⟩, .ok, .addr .colHigh 128 0⟩) =
    ⟨.unknown, none, []⟩ := by decide

/-! ### Host reads, the assembler, pixels -/

/-- L13, X8. -/
theorem test_unwritten_outputs : faulted (step { idle with inbox := [.readLout] }) = some .unwrittenLout ∧
    faulted (step { idle with inbox := [.readXout] }) = some .unwrittenXout := by decide

/-- Program P2's last line, and P7's REFRESH. -/
theorem test_assemble_render : (assembleProgram ["; a comment".toList, "RENDER 24, 1, \"07:05:09\" ; draws".toList]).toOption =
    some [.request 0x0000001808000106 [0x30, 0x37, 0x3A, 0x30, 0x35, 0x3A, 0x30, 0x39]] := by decide

theorem test_assemble_refresh : (assembleProgram ["REFRESH \"12\"".toList, "SEND 0x55, 1".toList, "LOOKUP ';'".toList]).toOption =
    some [.request 0x020007 [], .request 0x05 [], .request 0x0000003602000106 [0x31, 0x32], .request 0x5512 [], .request 0x3B01 []] := by
  decide

/-- 20_memory.md R66: row 9 is bit 1 of page 1, from the end that `PIXEL_BIT_ORDER` names. -/
theorem test_pixel : (Disp.mk .ready none [(128, 0x02)]).pixel .lsbTop 0 9 = some true ∧
    (Disp.mk .ready none [(128, 0x02)]).pixel .msbTop 0 9 = some false ∧
    (Disp.mk .ready none [(128, 0x02)]).pixel .lsbTop 1 9 = none := by decide

/-! ### Witnesses: for every statement with hypotheses, a state and operands that meet them together -/

theorem cfg_wf : cfg.Wf := ⟨by decide, by decide, by decide, by decide⟩

theorem idle_inv : idle.Inv where
  cfg_wf := cfg_wf
  plan_le := by decide
  k_le := by decide
  busy_left := by decide
  plan_framed := by simp [idle, State.resetWith]
  hist_framed := by simp [idle, State.resetWith]
  txt_le := by decide
  fatal_silent := by decide
  disp_hist := by decide
  ram_wf := by decide

theorem fatal_inv : fatal.Inv where
  cfg_wf := cfg_wf
  plan_le := by decide
  k_le := by decide
  busy_left := by decide
  plan_framed := by simp [fatal, State.resetWith]
  hist_framed := by simp [fatal, State.resetWith]
  txt_le := by decide
  fatal_silent := by decide
  disp_hist := by decide
  ram_wf := by decide

theorem asked_inv {s : State} (h : s.Inv) (w : BitVec 64) (text : List Byte) : (asked s w text).Inv := h.with_inbox _

/-- A cursor setting in progress, whatever frame it stands at. -/
theorem emitting_inv (k : BitVec 16) (hk : k.toNat < 3) (r : TransportReply) : (emitting (cursorFrames cfg 24 1) k r).Inv where
  cfg_wf := cfg_wf
  plan_le := (by decide : (3 : Nat) ≤ 65535)
  k_le := Nat.le_of_lt hk
  busy_left := fun _ => hk
  plan_framed := cursorFrames_framed cfg 24 1
  hist_framed := by simp [emitting, idle, State.resetWith]
  txt_le := Nat.zero_le _
  fatal_silent := fun h => absurd h Bool.false_ne_true
  disp_hist := rfl
  ram_wf := Memory.wf_unknown

theorem ready_inv : ready.Inv where
  cfg_wf := cfg_wf
  plan_le := by decide
  k_le := by decide
  busy_left := by decide
  plan_framed := by simp [ready, idle, State.resetWith]
  hist_framed := by
    intro e he
    obtain ⟨e', he', rfl⟩ := List.mem_map.mp he
    exact initEntries_framed cfg _ e' he'
  txt_le := by decide
  fatal_silent := by decide
  disp_hist := by decide
  ram_wf := by decide

/-- An idle block with its 255-character text on the latch. -/
def latched : State := { idle with txt := List.replicate 255 0x31 }

/-- A cursor setting of `cfg` to (24, 1) at its frame `k`. -/
def atFrame (k : BitVec 16) (r : TransportReply) : State := emitting (cursorFrames cfg 24 1) k r

/-- GlyphIndexFollowsAlphabet, UnsupportedCharacterFallsBack: each range at both ends. -/
theorem witness_glyph_ranges : (0x30 ≤ (0x30 : Byte).toNat ∧ (0x39 : Byte).toNat ≤ 0x39) ∧ (0x3A : Byte).toNat = 0x3A ∧
    (0x2F : Byte).toNat < 0x30 ∧ 0x3A < (0x3B : Byte).toNat := by decide

/-- LookupWritesGlyphAndCompletes, CenterWritesColumnAndCompletes, UnsupportedCharacterFallsBack, RefreshRendersAtTheCenteredColumn
(both states); SetcurPlansItsThreeFrames, CmdAndDataPlanOneFrame, ClearPlansFourZeroedPages (the first). -/
theorem witness_idle_and_fatal : (idle.busy = false ∧ idle.fatal = false) ∧ (fatal.busy = false ∧ fatal.fatal = true) := by decide

/-- ColumnCommandBytes, PageSelectByte. -/
theorem witness_columns_and_pages : (127 : Byte).toNat ≤ 127 ∧ 128 ≤ (128 : Byte).toNat ∧ 3 < (4 : Byte).toNat := by decide

theorem witness_ColumnIsRecoveredFromNibbles : cfg.colLoBase &&& 0x0F = 0 ∧ cfg.colHiBase &&& 0x0F = 0 ∧
    (cursorFrames cfg 255 3)[1]? = some ⟨⟨0x00, 0x0F⟩, .addr .colLow 255 3⟩ ∧
    (cursorFrames cfg 255 3)[2]? = some ⟨⟨0x00, 0x1F⟩, .addr .colHigh 255 3⟩ := by decide

theorem witness_DecodeEncodeRoundTrip : (Instr.ctlPageSelect 3).wf = true ∧ (Instr.ctlColHi 15).wf = true ∧ (Instr.render (-1) 255 255).wf = true := by
  decide

/-- Two words of each operation that agree in the fields it reads and differ elsewhere. -/
theorem witness_IgnoredFieldsChangeNothing : [((0xDEADBEEF12343701, 0x3701) : BitVec 64 × BitVec 64), (0xFF4002, 0x4002)].all
      (fun p => decide (p.1 ≠ p.2 ∧ p.1.extractLsb' 0 8 = p.2.extractLsb' 0 8 ∧ (reqOp p.1 = 0x1 ∨ reqOp p.1 = 0x2) ∧ reqA p.1 = reqA p.2)) = true ∧
    [((0xFF03, 0x03) : BitVec 64 × BitVec 64), (0xFF05, 0x05)].all
      (fun p => decide (p.1 ≠ p.2 ∧ p.1.extractLsb' 0 8 = p.2.extractLsb' 0 8 ∧ (reqOp p.1 = 0x3 ∨ reqOp p.1 = 0x5))) = true ∧
    (reqOp 0xFF180104 = 0x4 ∧ reqA 0xFF180104 = reqA 0x180104 ∧ reqB 0xFF180104 = reqB 0x180104) ∧
    (reqOp 0x0000001808FF0106 = 0x6 ∧ reqA 0x0000001808FF0106 = reqA 0x0000001808000106 ∧
      reqN 0x0000001808FF0106 = reqN 0x0000001808000106 ∧ reqX 0x0000001808FF0106 = reqX 0x0000001808000106) ∧
    (reqOp 0xFF080007 = 0x7 ∧ reqB 0xFF080007 = reqB 0x080007) := by decide

/-- The assembler's ranges at both ends. -/
theorem witness_AssemblerWords : (List.replicate 255 (0x30 : Byte)).length ≤ 255 ∧ (255 < (256 : Int) ∧ (-1 : Int) < 0) ∧
    ((2 : Int) ≠ 0 ∧ (2 : Int) ≠ 1) ∧ ((-2147483649 : Int) < -2147483648 ∧ (2147483647 : Int) < 2147483648) ∧
    255 < (List.replicate 256 (0x30 : Byte)).length := by decide +kernel

theorem witness_InitPlansEveryListByte : idle.busy = false ∧ idle.fatal = false ∧ idle.cfg.Wf ∧
    idle.cfg.initSeq.toList.flatten[24]? = some 0xAF := ⟨rfl, rfl, cfg_wf, by decide⟩

theorem witness_GlyphStreamConcatenatesGlyphs : ([0x30, 0x37] : List Byte)[1]? = some 0x37 := by decide

/-- RenderContractCheck, RenderPlansItsGlyphs, RenderDependsOnLowColumnByte: RENDER with the longest text, and two start columns with one
low byte. -/
theorem witness_render : latched.busy = false ∧ latched.fatal = false ∧ (255 : Byte).toNat ≤ latched.txt.length ∧
    (254 < (255 : Byte).toNat ∧ latched.txt[254]? = some 0x31) ∧
    ((256 : BitVec 32) ≠ 0 ∧ (256 : BitVec 32).extractLsb' 0 8 = (0 : BitVec 32).extractLsb' 0 8) := by decide +kernel

theorem witness_RenderDependsOnLowColumnByte : latched.cfg = ready.cfg ∧ ready.busy = false ∧ ready.fatal = false ∧
    latched.txt.take (255 : Byte).toNat = ({ ready with txt := latched.txt } : State).txt.take (255 : Byte).toNat := ⟨rfl, rfl, rfl, rfl⟩

theorem witness_PlanSizes : (List.replicate 255 (0x31 : Byte)).length ≤ 255 ∧ Instr.clear ≠ .init := by decide +kernel

theorem witness_OpenErrorUntilReset : fatal.busy = false ∧ fatal.fatal = true ∧ textReady fatal .clear ∧ emitsFrames .clear = true ∧
    (∃ t, step fatal = .next t) ∧ (∃ t, step { fatal with inbox := [.reset .openOk] } = .next t) :=
  ⟨rfl, rfl, trivial, rfl, ⟨_, rfl⟩, ⟨_, rfl⟩⟩

theorem witness_IllegalWordCompletesAtAccept : (asked idle 0x16 []).inbox = .request 0x16 [] :: [] ∧ (asked idle 0x16 []).busy = false ∧
    legalRequest 0x16 = false := by decide

/-- RENDER of three characters with two, and with three, bytes of text. -/
theorem witness_RenderNeedsItsText : idle.busy = false ∧ legalRequest 0x03000006 = true ∧ reqOp 0x03000006 = 0x6 ∧
    ([0x31, 0x32] : List Byte).length < (reqN 0x03000006).toNat ∧ (reqN 0x03000006).toNat ≤ ([0x31, 0x32, 0x33] : List Byte).length := by decide

theorem witness_StepRunsPresentedRequest : (asked idle 0x3701 []).inbox = .request 0x3701 [] :: [] ∧ (asked idle 0x3701 []).busy = false ∧
    decode (asked idle 0x3701 []).cfg (.request 0x3701) = .ok (.lookup 0x37) := ⟨rfl, rfl, rfl⟩

/-- The three kinds of inbox of a block at its first frame. -/
theorem witness_StepEmitsDecodedEntry : (atFrame 0 .ok).busy = true ∧
    (atFrame 0 .ok).plan[(atFrame 0 .ok).k.toNat]? = some ⟨⟨0x00, 0xB1⟩, .addr .pageSelect 24 1⟩ ∧
    decodeEntry cfg ⟨⟨0x00, 0xB1⟩, .addr .pageSelect 24 1⟩ = .ok (.ctlPageSelect 1) ∧ (atFrame 0 .ok).inbox = [] ∧
    (asked (atFrame 0 .ok) 0x05 []).inbox = .request 0x05 [] :: [] ∧
    ({ atFrame 0 .ok with inbox := [.wait] } : State).inbox = .wait :: [] := ⟨rfl, by decide, by rfl, rfl, rfl, rfl⟩

/-- A request accepted, one held, and none presented. -/
theorem witness_LatchesAreWrittenOnlyAtAccept : (∃ t, step (asked idle 0x01000006 [0x31]) = .next t) ∧
    (asked idle 0x01000006 [0x31]).inbox = .request 0x01000006 [0x31] :: [] ∧ (asked idle 0x01000006 [0x31]).busy = false ∧
    (∀ link rest, (asked idle 0x01000006 [0x31]).inbox ≠ .reset link :: rest) ∧
    (∃ t, step (asked (atFrame 0 .ok) 0x05 []) = .next t) ∧ (∀ w text rest, idle.inbox ≠ .request w text :: rest) :=
  ⟨⟨_, rfl⟩, rfl, rfl, fun _ _ => (nomatch ·), ⟨_, rfl⟩, fun _ _ _ => (nomatch ·)⟩

theorem witness_BusyHoldsTheRequest : (asked (atFrame 0 .ok) 0x05 []).busy = true ∧
    (asked (atFrame 0 .ok) 0x05 []).inbox = .request 0x05 [] :: [] ∧ (∃ t, step (asked (atFrame 0 .ok) 0x05 []) = .next t) ∧
    isRequest .clear = true ∧ textReady (atFrame 0 .ok) .clear := ⟨rfl, rfl, ⟨_, rfl⟩, rfl, trivial⟩

/-- DeliveredFrameAdvancesThePlan, FailedFrameEndsTheRequest: a command frame and a data frame at the sequencer, with either answer. -/
theorem witness_answered_frames : [TransportReply.ok, .err].all (fun r => decide (
    (emitting [⟨⟨0x00, 0xAE⟩, .rawCmd⟩] 0 r).busy = true ∧ nextReply (emitting [⟨⟨0x00, 0xAE⟩, .rawCmd⟩] 0 r) = r ∧
    (emitting [⟨⟨0x00, 0xAE⟩, .rawCmd⟩] 0 r).plan[(0 : BitVec 16).toNat]? = some ⟨⟨0x00, 0xAE⟩, .rawCmd⟩ ∧
    (emitting [⟨⟨0x40, 0xFF⟩, .data⟩] 0 r).plan[(0 : BitVec 16).toNat]? = some ⟨⟨0x40, 0xFF⟩, .data⟩)) = true := by decide

/-- The three frames of a cursor setting, each where the sequencer stands. -/
theorem witness_CursorBytesAreTheirFrames : (atFrame 0 .ok).busy = true ∧
    (atFrame 0 .ok).plan[(0 : BitVec 16).toNat]? = some ⟨⟨0x00, cfg.pageBase + 1⟩, .addr .pageSelect 24 1⟩ ∧
    (atFrame 1 .ok).plan[(1 : BitVec 16).toNat]? = some ⟨⟨0x00, cfg.colLoBase + 8⟩, .addr .colLow 24 1⟩ ∧
    (atFrame 2 .ok).plan[(2 : BitVec 16).toNat]? = some ⟨⟨0x00, cfg.colHiBase + 1⟩, .addr .colHigh 24 1⟩ ∧
    nextReply (atFrame 0 .ok) = .ok := by decide

/-- An idle block, and a block at a frame that is none of the five with operand `0x02`. -/
theorem witness_EmitOnlyWhenEnabled : idle.busy = false ∧ (atFrame 0 .ok).busy = true ∧
    (atFrame 0 .ok).plan[(0 : BitVec 16).toNat]? = some ⟨⟨0x00, 0xB1⟩, .addr .pageSelect 24 1⟩ ∧
    (⟨0x00, 0xB1⟩ : Frame) ≠ ⟨0x00, 0x02⟩ ∧ (⟨0x00, 0xB1⟩ : Frame) ≠ ⟨0x40, 0x02⟩ ∧ (⟨0x00, 0xB1⟩ : Frame) ≠ ⟨0x00, cfg.pageBase + 0x02⟩ ∧
    (⟨0x00, 0xB1⟩ : Frame) ≠ ⟨0x00, cfg.colLoBase + 0x02⟩ ∧ (⟨0x00, 0xB1⟩ : Frame) ≠ ⟨0x00, cfg.colHiBase + 0x02⟩ := by decide

theorem witness_SilentTransportHangsTheRequest : (atFrame 0 .never).Inv ∧ (atFrame 0 .never).busy = true ∧ (atFrame 0 .never).inbox = [] ∧
    nextReply (atFrame 0 .never) = .never ∧ (atFrame 2 .err).Inv ∧ TransportAnswers (atFrame 2 .err) :=
  ⟨emitting_inv 0 (by decide) .never, rfl, rfl, rfl, emitting_inv 2 (by decide) .err, by unfold TransportAnswers; decide⟩

/-- StatusWordLayout, OutputReadsNeedTheirValidBit: reads of outputs that are, and are not, valid. -/
theorem witness_host_reads : ({ idle with inbox := [.readStatus] } : State).inbox = .readStatus :: [] ∧
    ({ idle with inbox := [.readLout] } : State).loutValid = false ∧ ({ idle with inbox := [.readXout] } : State).xoutValid = false ∧
    ({ idle with inbox := [.readLout], loutValid := true } : State).loutValid = true ∧
    ({ idle with inbox := [.readXout], xoutValid := true } : State).xoutValid = true := by decide

/-- FailidxChangesOnlyOnWriteError, ContractBitsAreSticky, HistoryGrowsByTheCurrentFrame, ConfigurationIsNeverWritten: a step that ends a
request with `WRITE_ERROR`, a step that does not, and no reset due in either. -/
theorem witness_steps_without_reset : (∃ t, step (atFrame 1 .err) = .next t) ∧ (∃ t, step (atFrame 1 .ok) = .next t) ∧
    (∀ link rest, (atFrame 1 .err).inbox ≠ .reset link :: rest) ∧ (∀ link rest, (atFrame 1 .ok).inbox ≠ .reset link :: rest) :=
  ⟨⟨_, rfl⟩, ⟨_, rfl⟩, fun _ _ => (nomatch ·), fun _ _ => (nomatch ·)⟩

theorem witness_ContractBitsAreSticky : idle.busy = false ∧ idle.fatal = false ∧ (∃ t, exec (.setcur 128 4) idle = .next t) ∧
    ({ idle with cv := ⟨true, true, true⟩ } : State).cv.wide = true ∧ (∃ t, step { idle with cv := ⟨true, true, true⟩ } = .next t) :=
  ⟨rfl, rfl, ⟨_, rfl⟩, rfl, ⟨_, rfl⟩⟩

/-- The last frame of a plan, each answer. -/
theorem witness_FrameIndexCountsDeliveredFrames : (atFrame 2 .ok).Inv ∧ (atFrame 2 .ok).busy = true ∧ (atFrame 2 .ok).inbox = [] ∧
    (∃ t, step (atFrame 2 .ok) = .next t) ∧ (∃ t, step (atFrame 2 .err) = .next t) ∧ nextReply (atFrame 2 .ok) = .ok ∧
    nextReply (atFrame 2 .err) ≠ .ok := ⟨emitting_inv 2 (by decide) .ok, rfl, rfl, ⟨_, rfl⟩, ⟨_, rfl⟩, rfl, by decide⟩

/-- Reset while a plan is in progress, with either `LINK`. -/
theorem witness_ResetValues : ({ atFrame 1 .ok with inbox := [.reset .openFail] } : State).inbox = .reset .openFail :: [] ∧
    ({ atFrame 1 .ok with inbox := [.reset .openOk] } : State).inbox = .reset .openOk :: [] := ⟨rfl, rfl⟩

theorem witness_NextCursor : (126 : Fin 128).val < 127 ∧ (127 : Fin 128).val = 127 ∧ (2 : Fin 4).val < 3 ∧ (3 : Fin 4).val = 3 := by decide

/-- A data frame at a known cursor of a `READY` display, and without one. -/
theorem witness_DataFramePaintsOneByte : (emitting [⟨⟨0x40, 0x3C⟩, .data⟩] 0 .ok).busy = true ∧
    (emitting [⟨⟨0x40, 0x3C⟩, .data⟩] 0 .ok).plan[(0 : BitVec 16).toNat]? = some ⟨⟨0x40, 0x3C⟩, .data⟩ ∧
    nextReply (emitting [⟨⟨0x40, 0x3C⟩, .data⟩] 0 .ok) = .ok ∧
    ({ emitting [⟨⟨0x40, 0x3C⟩, .data⟩] 0 .ok with disp := ⟨.ready, some ⟨127, 3⟩, []⟩ } : State).disp.cur = some ⟨127, 3⟩ ∧
    (emitting [⟨⟨0x40, 0x3C⟩, .data⟩] 0 .ok).disp.ctl ≠ .ready ∧ (⟨0, 0⟩ : Cursor) ≠ ⟨127, 3⟩ := by decide

/-- The clauses of a cursor setting at the ends of the ranges. -/
theorem witness_CursorSettingMovesTheCursor : CursorSlot.pageSelect ≠ .colHigh ∧ (Disp.mk .ready none []).ctl = .ready ∧
    (127 : Byte).toNat ≤ 127 ∧ (3 : Byte).toNat ≤ 3 ∧ 127 < (128 : Byte).toNat ∧ 3 < (4 : Byte).toNat ∧ (Disp.mk .uninit none []).ctl ≠ .ready := by
  decide

theorem witness_UnknownAfterFailureAndCommands : (Answer.err = .err) ∧ (Tag.rawCmd = .rawCmd) ∧ (∃ last, Tag.init true = .init last) :=
  ⟨rfl, rfl, _, rfl⟩

theorem witness_PixelIsOneBitOfItsByte : (⟨127, 3⟩ : Cursor).col = 127 ∧ (⟨127, 3⟩ : Cursor).page.val = (31 : Fin 32).val / 8 ∧
    (Disp.mk .ready none [(511, 0x80)]).byteAt ⟨127, 3⟩ = some 0x80 ∧ (Disp.mk .ready none []).byteAt ⟨127, 3⟩ = none := by decide

theorem witness_ResetMeetsTheInvariant : cfg.Wf := cfg_wf

theorem witness_StepKeepsTheInvariant : (atFrame 1 .err).Inv ∧ ∃ t, step (atFrame 1 .err) = .next t :=
  ⟨emitting_inv 1 (by decide) .err, _, rfl⟩

theorem witness_OnlyTheHostCanStopTheMachine : idle.Inv ∧ (asked idle 0x03000006 []).Inv := ⟨idle_inv, asked_inv idle_inv _ _⟩

/-- Two frames left, both answered `OK`. -/
theorem witness_AnsweredPlanRunsToCompletion : (atFrame 1 .ok).Inv ∧ (atFrame 1 .ok).busy = true ∧ (atFrame 1 .ok).inbox = [] ∧
    ({ atFrame 1 .ok with replies := [.ok, .ok] } : State).Inv ∧
    ({ atFrame 1 .ok with replies := [.ok, .ok] } : State).replies = List.replicate (restOfPlan (atFrame 1 .ok)).length .ok ++ [] :=
  have h := emitting_inv 1 (by decide) .ok
  ⟨h, rfl, rfl, h.transfer rfl rfl rfl id rfl rfl rfl h.txt_le, by decide⟩

/-- Two frames left, the second answered `ERR`. -/
theorem witness_FirstFailureEndsTheRequest : ({ atFrame 1 .ok with replies := [.ok, .err] } : State).Inv ∧
    ({ atFrame 1 .ok with replies := [.ok, .err] } : State).busy = true ∧ ({ atFrame 1 .ok with replies := [.ok, .err] } : State).inbox = [] ∧
    (restOfPlan (atFrame 1 .ok))[1]? = some ⟨⟨0x00, 0x11⟩, .addr .colHigh 24 1⟩ ∧
    ({ atFrame 1 .ok with replies := [.ok, .err] } : State).replies = List.replicate 1 .ok ++ .err :: [] :=
  have h := emitting_inv 1 (by decide) .ok
  ⟨h.transfer rfl rfl rfl id rfl rfl rfl h.txt_le, rfl, rfl, by decide, rfl⟩

theorem witness_CompleteInitReadiesTheDisplay : ({ asked idle 0x03 [] with replies := List.replicate cfg.initBytes.length .ok } : State).Inv ∧
    idle.busy = false ∧ idle.fatal = false ∧ decodeRequest 0x03 = .ok .init ∧ (asked idle 0x03 []).inbox = [.request 0x03 []] :=
  have h := asked_inv idle_inv 0x03 []
  ⟨h.transfer rfl rfl rfl id rfl rfl rfl h.txt_le, rfl, rfl, rfl, rfl⟩

theorem witness_CompleteClearZeroesTheDisplay : ({ asked ready 0x05 [] with replies := List.replicate 524 .ok } : State).Inv ∧
    ready.busy = false ∧ ready.fatal = false ∧ ready.disp.ctl = .ready ∧ decodeRequest 0x05 = .ok .clear ∧
    (asked ready 0x05 []).inbox = [.request 0x05 []] :=
  have h := asked_inv ready_inv 0x05 []
  ⟨h.transfer rfl rfl rfl id rfl rfl rfl h.txt_le, rfl, rfl, rfl, rfl, rfl⟩

/-- RENDER 118, 3, "1": its ten bytes end exactly at (127, 3). -/
theorem witness_CompleteRenderPaintsItsGlyphs :
    ({ asked ready 0x0000007601000306 [0x31] with replies := List.replicate (3 + 10 * (1 : Byte).toNat) .ok } : State).Inv ∧
    ready.busy = false ∧ ready.fatal = false ∧ ready.disp.ctl = .ready ∧ decodeRequest 0x0000007601000306 = .ok (.render 118 3 1) ∧
    ([0x31] : List Byte).length = (1 : Byte).toNat ∧ (0 ≤ (118 : BitVec 32).toInt ∧ (118 : BitVec 32).toInt ≤ 127) ∧ (3 : Byte).toNat ≤ 3 ∧
    128 * (3 : Byte).toNat + (118 : BitVec 32).toNat + 10 * (1 : Byte).toNat ≤ 512 ∧
    (∃ d : Cursor, d.address = 128 * (3 : Byte).toNat + (118 : BitVec 32).toNat + 10 * 0 + (9 : Fin 10).val) :=
  have h := asked_inv ready_inv 0x0000007601000306 [0x31]
  ⟨h.transfer rfl rfl rfl id rfl rfl rfl h.txt_le, rfl, rfl, rfl, rfl, rfl, by decide, by decide, by decide, ⟨127, 3⟩, by decide⟩

end Sys2Proof.Tests
end

/-! The statements about the status word, the contract flags, the frame index and reset (10_state.md). -/

namespace Sys2Proof.Machine

/-! ### Accept from an idle block (10_state.md R35) -/

/-- What `exec` answers from an idle block that is not `FATAL`: a plan is started, in a state whose `CV` has taken the flags. -/
theorem exec_idle_starts_plan {i : Instr} {s t : State} (hb : s.busy = false) (hf : s.fatal = false) (h : exec i s = .next t) :
    ∃ p u, t = startPlan p u ∧ u.cv = s.cv.or (contractFlags i) := by
  rcases exec_request_next (isRequest_of_idle_next hb h) hb h with ⟨-, rfl⟩ | ⟨c, rfl, rfl⟩ | ⟨n, rfl, rfl⟩
  · exact ⟨_, _, acceptEmitting_of_idle hb hf _ _, rfl⟩
  · exact ⟨_, _, rfl, (Cv.or_none s.cv).symm⟩
  · exact ⟨_, _, rfl, (Cv.or_none s.cv).symm⟩

/-- A request that is in progress after its Accept left `STATUS` as it was (10_state.md R22). -/
theorem startPlan_status_of_busy {p : List PlanEntry} {s : State} (hb : s.busy = false) (h : (startPlan p s).busy = true) :
    (startPlan p s).status = s.status := by
  cases p with
  | nil => rw [startPlan_nil_busy, hb] at h; cases h
  | cons e rest => rfl

theorem acceptEmitting_status_of_busy {flags : Cv} {p : List PlanEntry} {s : State} (hb : s.busy = false)
    (h : (acceptEmitting flags p s).busy = true) : (acceptEmitting flags p s).status = s.status := by
  cases hf : s.fatal with
  | true => rw [acceptEmitting_of_fatal hb hf, takeException_busy] at h; cases h
  | false =>
    rw [acceptEmitting_of_idle hb hf] at h ⊢
    exact startPlan_status_of_busy hb h

/-- Accept adds its flags to `CV`, unless it is refused while `FATAL = 1` (10_state.md R35). -/
theorem acceptEmitting_cv_cases {s : State} (hb : s.busy = false) (flags : Cv) (p : List PlanEntry) :
    (acceptEmitting flags p s).cv = s.cv ∨ (acceptEmitting flags p s).cv = s.cv.or flags := by
  cases hf : s.fatal with
  | true => exact .inl (by rw [acceptEmitting_of_fatal hb hf, takeException_cv])
  | false => exact .inr (by rw [acceptEmitting_of_idle hb hf, startPlan_cv])

/-! ### `FAILIDX` and `STATUS` (10_state.md R22, R23) -/

/-- The step keeps `FAILIDX`, and `STATUS` while a request is in progress; no request ends in it with `WRITE_ERROR`. -/
structure KeepsFailidx (s t : State) : Prop where
  failidx_eq : t.failidx = s.failidx
  status_eq : t.busy = true → t.status = s.status
  not_failed : ¬ (s.busy = true ∧ t.busy = false ∧ t.status = .writeError)

/-- The request in progress ends with `WRITE_ERROR` at index `K`. -/
structure FailsAtK (s t : State) : Prop where
  was_busy : s.busy = true
  idle : t.busy = false
  status_eq : t.status = .writeError
  failidx_eq : t.failidx = s.k

/-- After a delivered frame the request has completed with `OK`, or goes on with the previous `STATUS` (10_state.md R36). -/
theorem advance_busy_status_cases (s : State) :
    ((advance s).busy = false ∧ (advance s).status = .ok) ∨ ((advance s).busy = s.busy ∧ (advance s).status = s.status) := by
  by_cases hlast : (s.k + 1).toNat = s.plan.length
  · exact .inl ⟨by rw [advance, if_pos hlast], by rw [advance, if_pos hlast]⟩
  · exact .inr ⟨by rw [advance, if_neg hlast], by rw [advance, if_neg hlast]⟩

/-- An Emit step fails at `K`, or keeps `FAILIDX`. -/
theorem emitEntry_failidx_cases {s : State} (hb : s.busy = true) (e : PlanEntry) :
    KeepsFailidx s (emitEntry e s) ∨ FailsAtK s (emitEntry e s) := by
  rcases emitEntry_cases e s with ⟨-, h⟩ | ⟨-, h⟩ | ⟨-, h⟩ <;> rw [h]
  · left
    have hfail : (advance (recordWrite e .ok (consumeReply s))).failidx = s.failidx := by simp
    rcases advance_busy_status_cases (recordWrite e .ok (consumeReply s)) with ⟨hi, hs⟩ | ⟨hbusy, hs⟩
    · exact ⟨hfail, by simp [hi], by simp [hs]⟩
    · exact ⟨hfail, by simp [hs], by simp [hbusy, hb]⟩
  · exact .inr ⟨hb, rfl, rfl, rfl⟩
  · exact .inl ⟨rfl, fun _ => rfl, by simp [hb]⟩

/-- A step from an idle block ends no request. -/
theorem KeepsFailidx.of_idle {s t : State} (hb : s.busy = false) (hf : t.failidx = s.failidx)
    (hs : t.busy = true → t.status = s.status) : KeepsFailidx s t :=
  ⟨hf, hs, fun ⟨hb', _⟩ => by rw [hb] at hb'; cases hb'⟩

/-- Every step but reset keeps `FAILIDX` or is the failing write of a request in progress. -/
theorem step_failidx_cases {s t : State} (h : step s = .next t)
    (hr : ∀ (link : Link) (rest : List HostEvent), s.inbox ≠ .reset link :: rest) : KeepsFailidx s t ∨ FailsAtK s t := by
  cases step_cases h with
  | idle rest hb _ ht => subst ht; exact .inl (.of_idle hb rfl fun _ => rfl)
  | emit rest e hb _ _ ht =>
    subst ht
    rcases emitEntry_failidx_cases (s := { s with inbox := rest }) hb e with ⟨h1, h2, h3⟩ | ⟨h1, h2, h3, h4⟩
    · exact .inl ⟨h1, h2, h3⟩
    · exact .inr ⟨h1, h2, h3, h4⟩
  | illegal w text rest hb _ ht => subst ht; exact .inl (.of_idle hb rfl fun hbusy => by simp at hbusy)
  | emitting w text rest i hb _ _ _ ht =>
    subst ht
    exact .inl (.of_idle hb (by simp) fun hbusy => acceptEmitting_status_of_busy (s := latchRequest w text _) hb hbusy)
  | lookup w text rest c hb _ _ ht =>
    subst ht
    exact .inl (.of_idle hb rfl fun hbusy => startPlan_status_of_busy (s := writeLout c _) hb hbusy)
  | center w text rest n hb _ _ ht =>
    subst ht
    exact .inl (.of_idle hb rfl fun hbusy => startPlan_status_of_busy (s := writeXout n _) hb hbusy)
  | read event rest d _ _ ht =>
    subst ht
    exact .inl ⟨rfl, fun _ => rfl, fun ⟨hb, hi, _⟩ => by rw [hb] at hi; cases hi⟩
  | reset link rest hin _ => exact absurd hin (hr link rest)

/-- Settles O42, from the two things a step but reset can do with `FAILIDX`. -/
theorem failidxChangesOnlyOnWriteError : Obligations.FailidxChangesOnlyOnWriteError := by
  intro s t h hr
  rcases step_failidx_cases h hr with ⟨hfail, hstatus, hnot⟩ | ⟨hb, hi, hstatus, hfail⟩
  · exact ⟨fun hend => absurd hend hnot, fun _ => hfail, hstatus⟩
  · exact ⟨fun _ => hfail, fun hnot => absurd ⟨hb, hi, hstatus⟩ hnot, fun hbusy => by rw [hi] at hbusy; cases hbusy⟩

/-! ### The contract flags (10_state.md R30) -/

/-- Every step but reset keeps `CV` or adds flags to it. -/
theorem step_cv_grows {s t : State} (h : step s = .next t)
    (hr : ∀ (link : Link) (rest : List HostEvent), s.inbox ≠ .reset link :: rest) : ∃ flags : Cv, t.cv = s.cv.or flags := by
  have keep (hcv : t.cv = s.cv) : ∃ flags : Cv, t.cv = s.cv.or flags := ⟨Cv.none, by rw [hcv, Cv.or_none]⟩
  cases step_cases h with
  | idle _ _ _ ht => exact keep (by rw [ht])
  | emit _ _ _ _ _ ht => exact keep (by rw [ht, emitEntry_cv])
  | illegal _ _ _ _ _ ht => exact keep (by rw [ht, takeException_cv, latchRequest_cv])
  | emitting w text rest i hb _ _ _ ht =>
    rcases acceptEmitting_cv_cases (s := latchRequest w text { s with inbox := rest }) hb (contractFlags i)
      (planOf s.cfg (latchRequest w text s).txt i) with hcv | hcv
    · exact keep (by rw [ht, hcv, latchRequest_cv])
    · exact ⟨_, by rw [ht, hcv, latchRequest_cv]⟩
  | lookup _ _ _ _ _ _ _ ht => exact keep (by rw [ht, startPlan_cv, writeLout_cv, latchRequest_cv])
  | center _ _ _ _ _ _ _ ht => exact keep (by rw [ht, startPlan_cv, writeXout_cv, latchRequest_cv])
  | read _ _ _ _ _ ht => exact keep (by rw [ht])
  | reset link rest hin _ => exact absurd hin (hr link rest)

/-- Settles O43: a step ORs flags into `CV`, and Accept those of its request. -/
theorem contractBitsAreSticky : Obligations.ContractBitsAreSticky := by
  refine ⟨fun s t h hr => ?_, fun s t i hb hf h => ?_, fun _ _ => rfl⟩
  · obtain ⟨flags, hcv⟩ := step_cv_grows h hr
    simp +contextual [hcv, Cv.or]
  · obtain ⟨p, u, rfl, hcv⟩ := exec_idle_starts_plan hb hf h
    simp [hcv, Cv.or]

/-! ### The frame index (10_state.md R26) -/

theorem emitEntry_k_of_ok {s : State} (h : nextReply s = .ok) (e : PlanEntry) : (emitEntry e s).k = s.k + 1 := by
  rw [emitEntry_ok h, advance_k, recordWrite_k, consumeReply_k]

theorem emitEntry_k_of_not_ok {s : State} (h : nextReply s ≠ .ok) (e : PlanEntry) : (emitEntry e s).k = s.k := by
  rcases emitEntry_cases e s with ⟨hok, -⟩ | ⟨-, he⟩ | ⟨-, he⟩
  · exact absurd hok h
  · rw [he, takeException_k, recordWrite_k, consumeReply_k]
  · rw [he]

/-- Settles O44: Accept starts a plan at index 0, and the invariant bounds `K` before and after an Emit step. -/
theorem frameIndexCountsDeliveredFrames : Obligations.FrameIndexCountsDeliveredFrames := by
  refine ⟨fun s t i hb hf h => ?_, fun s t hs hb hin h => ?_⟩
  · obtain ⟨p, u, rfl, -⟩ := exec_idle_starts_plan hb hf h
    exact startPlan_k u p
  · obtain ⟨e, he⟩ := hs.current hb
    rw [step_emits hs hb hin he] at h
    injection h with h
    subst h
    exact ⟨fun hok => by rw [emitEntry_k_of_ok hok, hs.k_succ hb], fun hnot => emitEntry_k_of_not_ok hnot e,
      (hs.emitEntry hb he).k_le⟩

/-! ### The status word (10_state.md R29) -/

/-- The bits of a field of `STATUS_WORD` that stands at `pos`. -/
theorem shiftedField_getLsbD {n : Nat} (v : BitVec n) (pos : Nat) {i : Nat} (hi : i < 32) :
    (v.setWidth 32 <<< pos).getLsbD i = (decide (pos ≤ i) && v.getLsbD (i - pos)) := by
  have hsub : i - pos < 32 := by omega
  simp only [BitVec.getLsbD_shiftLeft, BitVec.getLsbD_setWidth, hi, hsub, decide_true, Bool.true_and, ← decide_not, Nat.not_lt]

/-- A one-bit field has its bit at its position and no other. -/
theorem bitField_getLsbD (v : Bool) (pos : Nat) {i : Nat} (hi : i < 32) : (bitField v pos).getLsbD i = (decide (i = pos) && v) := by
  rw [bitField, shiftedField_getLsbD _ _ hi, BitVec.getLsbD_ofBool, ← Bool.and_assoc, ← Bool.decide_and]
  congr 2
  exact propext (by omega)

/-- The bits of `STATUS_WORD`, field by field. -/
theorem statusWord_getLsbD (s : State) {i : Nat} (hi : i < 32) : (statusWord s).getLsbD i =
    ((decide (16 ≤ i) && s.failidx.getLsbD (i - 16)) || (decide (i = 8) && s.xoutValid) || (decide (i = 7) && s.loutValid) ||
     (decide (i = 6) && s.cv.wide) || (decide (i = 5) && s.cv.page) || (decide (i = 4) && s.cv.col) ||
     (decide (2 ≤ i) && s.status.code.getLsbD (i - 2)) || (decide (i = 1) && s.fatal) || (decide (i = 0) && s.busy)) := by
  simp only [statusWord, BitVec.getLsbD_or, shiftedField_getLsbD _ _ hi, bitField_getLsbD _ _ hi]

theorem statusWord_code (s : State) : (statusWord s).extractLsb' 2 2 = s.status.code := by
  apply BitVec.eq_of_getLsbD_eq
  intro i hi
  rw [BitVec.getLsbD_extractLsb', statusWord_getLsbD s (by omega)]
  interval_cases i <;> simp

theorem statusWord_reserved (s : State) : (statusWord s).extractLsb' 9 7 = 0 := by
  apply BitVec.eq_of_getLsbD_eq
  intro i hi
  rw [BitVec.getLsbD_extractLsb', statusWord_getLsbD s (by omega)]
  interval_cases i <;> simp

theorem statusWord_failidx (s : State) : (statusWord s).extractLsb' 16 16 = s.failidx := by
  apply BitVec.eq_of_getLsbD_eq
  intro i hi
  rw [BitVec.getLsbD_extractLsb', statusWord_getLsbD s (by omega)]
  interval_cases i <;> simp

/-- Settles O40: the fields by their bits, the read by its step, the reset values by evaluation for either `LINK`. -/
theorem statusWordLayout : Obligations.StatusWordLayout := by
  refine ⟨fun s => ⟨?_, fun rest hin => ?_⟩, fun cfg link => ?_⟩
  · refine ⟨?_, ?_, ?_, ?_, ?_, ?_, ?_, ?_, statusWord_reserved s, statusWord_failidx s⟩
    case refine_3 => rw [statusWord_code]; cases s.status <;> rfl
    all_goals rw [statusWord_getLsbD s (by decide)]; simp
  · simp only [step, takeStep, hin, readStatusWord]; rfl
  · cases link <;> simp [statusWord, State.resetWith, bitField, Status.code]

/-! ### Reset (10_state.md R40, 70_reset_and_hazards.md R132) -/

theorem step_reset {s : State} {link : Link} {rest : List HostEvent} (hin : s.inbox = .reset link :: rest) :
    step s = .next (hostReset link { s with inbox := rest }) := by
  simp only [step, takeStep, hin]

/-- Settles O47: the reset values are read off `hostReset`, and a cleared valid bit makes a read fault. -/
theorem resetValues : Obligations.ResetValues := by
  intro s link rest hin
  exact ⟨_, step_reset hin, rfl, decide_eq_true_iff, rfl, rfl, rfl, rfl, rfl, rfl, rfl, rfl, rfl, rfl, rfl, rfl, fun _ => rfl,
    fun _ => rfl, fun _ => rfl⟩

end Sys2Proof.Machine

/-! The statements about the display memory and its cursor (20_memory.md). -/

namespace Sys2Proof.Machine

/-! ### The cursor after a data write (20_memory.md R65) -/

theorem Cursor.next_of_col_lt {c : Cursor} (hc : c.col.val < 127) : c.next = some ⟨⟨c.col.val + 1, by omega⟩, c.page⟩ :=
  dif_pos hc

theorem Cursor.next_of_row_end {c : Cursor} (hc : c.col.val = 127) (hp : c.page.val < 3) :
    c.next = some ⟨0, ⟨c.page.val + 1, by omega⟩⟩ :=
  (dif_neg (by omega)).trans (dif_pos hp)

theorem Cursor.next_of_last {c : Cursor} (hc : c.col.val = 127) (hp : c.page.val = 3) : c.next = none :=
  (dif_neg (by omega)).trans (dif_neg (by omega))

/-- Settles O48: one equation for each case of R65. -/
theorem nextCursor : Obligations.NextCursor := by
  refine fun c => ⟨fun hc => ?_, fun hc hp => ?_, Cursor.next_of_last⟩
  · exact ⟨_, Cursor.next_of_col_lt hc, rfl, rfl⟩
  · exact ⟨_, Cursor.next_of_row_end hc hp, rfl, rfl⟩

end Sys2Proof.Machine

/-! The statements about the encodings: request words, the assembler and the command bytes of a cursor setting (30_encoding.md). -/

namespace Sys2Proof.Machine

/-! ### Legal request words (30_encoding.md R74) -/

theorem legalRequest_iff (w : BitVec 64) : legalRequest w = true ↔
    (1 ≤ (reqOp w).toNat ∧ (reqOp w).toNat ≤ 7) ∧ reqRsv w = 0 ∧ (reqD w = 0 ∨ reqOp w = 0x2) := by
  simp [legalRequest, and_assoc]

/-- The three conditions read only the low byte of the word, so the mask test is one over 8-bit values. -/
theorem legalRequest_iff_low (w : BitVec 64) : legalRequest w = true ↔
    w.extractLsb' 0 8 ∈ ([0x01, 0x02, 0x12, 0x03, 0x04, 0x05, 0x06, 0x07] : List (BitVec 8)) := by
  have mask : ∀ low : BitVec 8,
      ((1 ≤ (low.extractLsb' 0 4).toNat ∧ (low.extractLsb' 0 4).toNat ≤ 7) ∧ low.extractLsb' 5 3 = 0 ∧
        (low.extractLsb' 4 1 = 0 ∨ low.extractLsb' 0 4 = 0x2)) ↔
      low ∈ ([0x01, 0x02, 0x12, 0x03, 0x04, 0x05, 0x06, 0x07] : List (BitVec 8)) := by decide
  rw [legalRequest_iff, reqOp_eq_low, reqD_eq_low, reqRsv_eq_low, mask]

/-- The operations that the decoder rejects are those outside 0x1 to 0x7. -/
theorem reservedOp_iff (op : BitVec 4) : (op = 0 ∨ 8 ≤ op.toNat) ↔ ¬ (1 ≤ op.toNat ∧ op.toNat ≤ 7) := by
  revert op; decide

/-- The decoder's tests in their order: each rejecting one denies a condition of `Legal`, and behind them every branch decodes. -/
theorem legalRequest_iff_decodes (w : BitVec 64) : legalRequest w = true ↔ ∃ i, decodeRequest w = .ok i := by
  rw [legalRequest_iff, decodeRequest]
  by_cases hrsv : reqRsv w = 0
  case neg => rw [if_pos hrsv]; exact iff_of_false (fun h => hrsv h.2.1) (by simp)
  rw [if_neg (not_not.mpr hrsv)]
  by_cases hsend : reqOp w = 0x2
  case pos => rw [if_pos hsend]; exact iff_of_true ⟨by rw [hsend]; decide, hrsv, .inr hsend⟩ ⟨_, rfl⟩
  rw [if_neg hsend]
  by_cases hop : 1 ≤ (reqOp w).toNat ∧ (reqOp w).toNat ≤ 7
  case neg => rw [if_pos ((reservedOp_iff _).mpr hop)]; exact iff_of_false (fun h => hop h.1) (by simp)
  rw [if_neg (mt (reservedOp_iff _).mp (not_not.mpr hop))]
  by_cases hd : reqD w = 0
  case neg => rw [if_pos hd]; exact iff_of_false (fun h => h.2.2.elim hd hsend) (by simp)
  rw [if_neg (not_not.mpr hd)]
  exact iff_of_true ⟨hop, hrsv, .inl hd⟩ (by split_ifs <;> exact ⟨_, rfl⟩)

/-- Settles O9: the conditions are the definition's, the mask test one over the low byte, and decoding rejects exactly the rest. -/
theorem legalWordsAreTheEightLowBytes : Obligations.LegalWordsAreTheEightLowBytes :=
  fun w => ⟨legalRequest_iff w, legalRequest_iff_low w, legalRequest_iff_decodes w⟩

/-! ### The assembler's operands (30_encoding.md R86) -/

theorem asmByte_toNat (b : Byte) : asmByte b.toNat = .ok b := by
  have := b.isLt
  rw [asmByte, if_pos (by omega), BitVec.ofInt_natCast, BitVec.ofNat_toNat, BitVec.setWidth_eq]

theorem asmColumn_toInt (x : BitVec 32) : asmColumn x.toInt = .ok x := by
  have := x.le_toInt
  have := x.toInt_lt
  rw [asmColumn, if_pos (by omega), BitVec.ofInt_toInt]

theorem asmLength_of_le {t : List Byte} (h : t.length ≤ 255) : asmLength t = .ok (BitVec.ofNat 8 t.length) := if_pos h

theorem asmByte_error {v : Int} (h : v < 0 ∨ 255 < v) : ∃ e, asmByte v = .error e := ⟨_, if_neg (by omega)⟩

theorem asmColumn_error {v : Int} (h : v < -2147483648 ∨ 2147483647 < v) : ∃ e, asmColumn v = .error e := ⟨_, if_neg (by omega)⟩

theorem asmLength_error {t : List Byte} (h : 255 < t.length) : ∃ e, asmLength t = .error e := ⟨_, if_neg (by omega)⟩

/-! ### Lines that fail: an error of any operand is an error of the line -/

theorem error_bind {ε α β : Type} {x : Except ε α} (hx : ∃ e, x = .error e) (f : α → Except ε β) :
    ∃ e, (x >>= f) = .error e := by
  obtain ⟨e, rfl⟩ := hx
  exact ⟨e, rfl⟩

theorem bind_error {ε α β : Type} (x : Except ε α) {f : α → Except ε β} (hf : ∀ a, ∃ e, f a = .error e) :
    ∃ e, (x >>= f) = .error e := by
  cases x with
  | error e => exact ⟨e, rfl⟩
  | ok a => exact hf a

theorem assemble_render_error {x page : Int} {t : List Byte}
    (h : (∃ e, asmColumn x = .error e) ∨ (∃ e, asmByte page = .error e) ∨ ∃ e, asmLength t = .error e) :
    ∃ e, assemble (.render x page t) = .error e := by
  refine error_bind (x := asmRender x page t) ?_ _
  rcases h with hx | hpage | ht
  · exact error_bind hx _
  · exact bind_error _ fun _ => error_bind hpage _
  · exact bind_error _ fun _ => bind_error _ fun _ => error_bind ht _

/-- A byte operand outside 0 to 255 is an error in every place a line has for one. -/
theorem assemble_byte_error {v : Int} (h : v < 0 ∨ 255 < v) (w : Int) (t : List Byte) :
    (∃ e, assemble (.lookup v) = .error e) ∧ (∃ e, assemble (.cmd v) = .error e) ∧ (∃ e, assemble (.data v) = .error e) ∧
    (∃ e, assemble (.send v 0) = .error e) ∧ (∃ e, assemble (.send v 1) = .error e) ∧
    (∃ e, assemble (.setcur v w) = .error e) ∧ (∃ e, assemble (.setcur w v) = .error e) ∧
    (∃ e, assemble (.render w v t) = .error e) ∧ (∃ e, assemble (.center v) = .error e) := by
  have hv := asmByte_error h
  exact ⟨error_bind hv _, error_bind hv _, error_bind hv _, error_bind hv _, error_bind hv _, error_bind hv _,
    bind_error _ fun _ => error_bind hv _, assemble_render_error (.inr (.inl hv)), error_bind hv _⟩

theorem assemble_send_error (b : Int) {d : Int} (h0 : d ≠ 0) (h1 : d ≠ 1) : ∃ e, assemble (.send b d) = .error e :=
  ⟨.bitOutOfRange d, by rw [assemble, if_neg h0, if_neg h1]⟩

/-! ### Lines that assemble: the request word of each mnemonic -/

theorem asmByte_toNat_bind {α : Type} (b : Byte) (f : Byte → Except AsmError α) : (asmByte b.toNat >>= f) = f b := by
  rw [asmByte_toNat]; rfl

/-- The word of a request without `N` and `X` (30_encoding.md R70). -/
theorem requestWord_ba (low a b : Byte) :
    requestWord low a b 0 0 = (b.setWidth 64 <<< 16) ||| (a.setWidth 64 <<< 8) ||| low.setWidth 64 := by
  simp [requestWord]

/-- The word of a request whose only operand is `A`. -/
theorem requestWord_a (low a : Byte) : requestWord low a 0 0 0 = (a.setWidth 64 <<< 8) ||| low.setWidth 64 := by
  simp [requestWord]

/-- The word of a request whose only operand is `B`. -/
theorem requestWord_b (low b : Byte) : requestWord low 0 b 0 0 = (b.setWidth 64 <<< 16) ||| low.setWidth 64 := by
  simp [requestWord]

/-- The word of RENDER: `X`, `N` and the page in `A` (30_encoding.md R70). -/
theorem requestWord_xna (low a n : Byte) (x : BitVec 32) :
    requestWord low a 0 n x = (x.setWidth 64 <<< 32) ||| (n.setWidth 64 <<< 24) ||| (a.setWidth 64 <<< 8) ||| low.setWidth 64 := by
  simp [requestWord]

/-- A line's one request, its word rewritten. -/
theorem line_congr {w w' : BitVec 64} (h : w = w') (t : List Byte) :
    (.ok [.request w t] : Except AsmError (List HostEvent)) = .ok [.request w' t] := by
  rw [h]

theorem assemble_lookup (c : Byte) : assemble (.lookup c.toNat) = .ok [.request ((c.setWidth 64 <<< 8) ||| 0x01) []] :=
  (asmByte_toNat_bind c _).trans (line_congr (requestWord_a 0x01 c) [])

theorem assemble_cmd (b : Byte) : assemble (.cmd b.toNat) = .ok [.request ((b.setWidth 64 <<< 8) ||| 0x02) []] :=
  (asmByte_toNat_bind b _).trans (line_congr (requestWord_a 0x02 b) [])

theorem assemble_data (b : Byte) : assemble (.data b.toNat) = .ok [.request ((b.setWidth 64 <<< 8) ||| 0x12) []] :=
  (asmByte_toNat_bind b _).trans (line_congr (requestWord_a 0x12 b) [])

/-- `SEND` is `CMD` or `DATA`, its `D` standing at bit 4 (30_encoding.md R70, R86). -/
theorem assemble_send (b : Byte) (d : BitVec 1) : assemble (.send b.toNat d.toNat) =
    .ok [.request ((b.setWidth 64 <<< 8) ||| (d.setWidth 64 <<< 4) ||| 0x02) []] := by
  obtain rfl | rfl : d = 0 ∨ d = 1 := by revert d; decide
  · exact (assemble_cmd b).trans (by simp)
  · exact (assemble_data b).trans (by rw [BitVec.or_assoc]; rfl)

theorem assemble_setcur (col page : Byte) : assemble (.setcur col.toNat page.toNat) =
    .ok [.request ((col.setWidth 64 <<< 16) ||| (page.setWidth 64 <<< 8) ||| 0x04) []] :=
  (asmByte_toNat_bind col _).trans ((asmByte_toNat_bind page _).trans (line_congr (requestWord_ba 0x04 page col) []))

theorem assemble_center (n : Byte) : assemble (.center n.toNat) = .ok [.request ((n.setWidth 64 <<< 16) ||| 0x07) []] :=
  (asmByte_toNat_bind n _).trans (line_congr (requestWord_b 0x07 n) [])

theorem asmRender_eq (x : BitVec 32) (page : Byte) {t : List Byte} (h : t.length ≤ 255) :
    asmRender x.toInt page.toNat t = .ok (.request (requestWord 0x06 page 0 (BitVec.ofNat 8 t.length) x) t) := by
  rw [asmRender, asmColumn_toInt, asmByte_toNat, asmLength_of_le h]; rfl

theorem assemble_render (x : BitVec 32) (page : Byte) {t : List Byte} (h : t.length ≤ 255) :
    assemble (.render x.toInt page.toNat t) =
      .ok [.request ((x.setWidth 64 <<< 32) ||| (BitVec.ofNat 64 t.length <<< 24) ||| (page.setWidth 64 <<< 8) ||| 0x06) t] := by
  have hlen : (BitVec.ofNat 8 t.length).setWidth 64 = BitVec.ofNat 64 t.length := by
    rw [BitVec.setWidth_ofNat_of_le_of_lt (by decide) (by omega)]
  rw [assemble, asmRender_eq x page h, ← hlen]
  exact line_congr (requestWord_xna 0x06 page _ x) t

/-- Settles O13: one equation for each mnemonic, and the errors of each kind of operand. -/
theorem assemblerWords : Obligations.AssemblerWords := by
  refine ⟨assemble_lookup, assemble_send, assemble_cmd, assemble_data, rfl, assemble_setcur, rfl,
    fun x page _ => assemble_render x page, assemble_center, fun v w hv t => assemble_byte_error hv w t,
    fun b _ => assemble_send_error b, fun x page t h => assemble_render_error ?_⟩
  rcases h with hx | hx | ht
  · exact .inl (asmColumn_error (.inl hx))
  · exact .inl (asmColumn_error (.inr hx))
  · exact .inr (.inr (asmLength_error ht))

/-! ### The command bytes of a cursor setting (30_encoding.md R79 to R81) -/

theorem toNat_high_nibble (c : Byte) : ((c >>> 4) &&& 0x0F).toNat = c.toNat / 16 := by
  have := c.isLt
  rw [toNat_and_nibble, BitVec.toNat_ushiftRight, Nat.shiftRight_eq_div_pow]
  omega

theorem colLowCommand_toNat (cfg : Config) (c : Byte) :
    (colLowCommand cfg c).toNat = (cfg.colLoBase.toNat + c.toNat % 16) % 256 := by
  rw [colLowCommand, BitVec.toNat_add, nibbleMask, toNat_and_nibble]

theorem colHighCommand_toNat (cfg : Config) (c : Byte) :
    (colHighCommand cfg c).toNat = (cfg.colHiBase.toNat + c.toNat / 16) % 256 := by
  rw [colHighCommand, BitVec.toNat_add, nibbleMask, toNat_high_nibble]

/-- Settles O6: both bytes by their nibble, and the high nibble as a quotient. -/
theorem columnCommandBytes : Obligations.ColumnCommandBytes := by
  intro cfg c
  have := c.isLt
  rw [toNat_high_nibble]
  exact ⟨colLowCommand_toNat cfg c, colHighCommand_toNat cfg c, fun hc => by omega,
    fun hc => ⟨by omega, by omega, fun _ => decide_eq_true (by omega)⟩⟩

/-- Settles O7: 8-bit addition wraps, and the contract check of R104 reads the page alone. -/
theorem pageSelectByte : Obligations.PageSelectByte :=
  fun cfg page => ⟨BitVec.toNat_add cfg.pageBase page, fun hp _ => decide_eq_true hp⟩

end Sys2Proof.Machine

/-! The statements about the glyph ROM: the index of a character code and the bytes of a glyph (40_glyph_rom.md). -/

namespace Sys2Proof.Machine

/-! ### The glyph index by range of codes (R88) -/

theorem glyphIndex_digit {c : Byte} (h : 0x30 ≤ c.toNat ∧ c.toNat ≤ 0x39) : (glyphIndex c).val = c.toNat - 0x30 := by
  rw [glyphIndex, dif_pos h]

theorem glyphIndex_colon : glyphIndex 0x3A = 10 := rfl

theorem glyphIndex_digitZero : glyphIndex 0x30 = 0 := rfl

theorem glyphIndex_unsupported {c : Byte} (h : c.toNat < 0x30 ∨ 0x3A < c.toNat) : glyphIndex c = 0 := by
  have hcolon : c ≠ 0x3A := by rintro rfl; exact absurd h (by decide)
  rw [glyphIndex, dif_neg (by omega), if_neg hcolon]

/-- Settles O1: one equation for each range of codes; a code outside the alphabet has the index of '0'. -/
theorem glyphIndexFollowsAlphabet : Obligations.GlyphIndexFollowsAlphabet := by
  refine fun c => ⟨glyphIndex_digit, fun h => ?_, fun h => (glyphIndex_unsupported h).trans glyphIndex_digitZero.symm⟩
  obtain rfl : c = 0x3A := BitVec.eq_of_toNat_eq h
  rw [glyphIndex_colon]; rfl

/-! ### A glyph as a list (R89) -/

theorem glyphOf_toList (cfg : Config) (c : Byte) :
    (glyphOf cfg c).toList = (List.finRange 10).map (glyphRead cfg (glyphIndex c)) := by
  rw [glyphOf, Vector.toList_ofFn, List.ofFn_eq_map]

/-- Settles O2: the length holds of every glyph, and the list tabulates the reads over `j`. -/
theorem glyphIsTenRomBytesInOrder : Obligations.GlyphIsTenRomBytesInOrder :=
  fun cfg c => ⟨glyphOf_toList_length cfg c, glyphOf_toList cfg c⟩

end Sys2Proof.Machine

/-! The statements about the protocol encoder (41_protocol_encoder.md). -/

namespace Sys2Proof.Machine

/-! ### The frame of a byte (R92) -/

theorem encodeFrame_eq (b : Byte) (isData : Bool) : encodeFrame b isData = ⟨if isData then 0x40 else 0x00, b⟩ := by
  rw [encodeFrame, prefixData, prefixCmd]

/-- Settles O5: the two constructors are the encoder at either value of the tag bit. -/
theorem encoderPrefixesTheByte : Obligations.EncoderPrefixesTheByte :=
  fun b => ⟨encodeFrame_eq b, encodeFrame_eq b false, encodeFrame_eq b true⟩

end Sys2Proof.Machine

/-! The statement about the controller initializer (42_controller_init.md). -/

namespace Sys2Proof.Machine

/-! ### Requests that start a plan (10_state.md R35) -/

/-- A request with frames, accepted by an idle block that is not `FATAL`: its plan is started, its flags are added to `CV`, and every
other element stays. -/
theorem exec_emitting_of_idle {i : Instr} (hemit : emitsFrames i = true) {s : State} (ht : textReady s i) (hb : s.busy = false)
    (hf : s.fatal = false) (hpos : 0 < (planOf s.cfg s.txt i).length) :
    exec i s = .next { s with cv := s.cv.or (contractFlags i), plan := planOf s.cfg s.txt i, k := 0, busy := true } := by
  rw [exec_emitting hemit ht, acceptEmitting_of_idle hb hf, startPlan_of_length_pos hpos]

/-! ### The plan of INIT (R101) -/

/-- The plan of INIT has at least one frame for each of its 16 items. -/
theorem planInit_length_ge {cfg : Config} (h : cfg.Wf) : 16 ≤ (planInit cfg).length := by
  rw [planInit_length]; exact initBytes_length_ge h

theorem planInit_getElem? {cfg : Config} {k : Nat} {b : Byte} (h : cfg.initBytes[k]? = some b) :
    (planInit cfg)[k]? = some ⟨⟨0x00, b⟩, .init (decide (k + 1 = (planInit cfg).length))⟩ := by
  rw [planInit_length]; exact initEntries_getElem? cfg.initBytes k b h

theorem exec_init_of_idle {s : State} (hb : s.busy = false) (hf : s.fatal = false) (hcfg : s.cfg.Wf) :
    exec .init s = .next { s with plan := planInit s.cfg, k := 0, busy := true } := by
  have hpos : 0 < (planInit s.cfg).length := Nat.lt_of_lt_of_le (by decide) (planInit_length_ge hcfg)
  rw [exec_emitting_of_idle (i := .init) rfl trivial hb hf hpos, contractFlags, Cv.or_none, planOf]

/-- Settles O18: INIT starts `planInit`, whose entries follow the concatenated items; 16 non-empty items make the plan non-empty. -/
theorem initPlansEveryListByte : Obligations.InitPlansEveryListByte :=
  fun s hb hf hcfg => ⟨planInit s.cfg, exec_init_of_idle hb hf hcfg, planInit_length s.cfg, planInit_length_ge hcfg,
    fun _ _ hk => planInit_getElem? hk⟩

end Sys2Proof.Machine

/-! The statements about the page/column address generator (43_addressing.md). -/

namespace Sys2Proof.Machine

/-! ### The cursor frames (R103) -/

theorem cmdFrame_eq (b : Byte) : cmdFrame b = ⟨0x00, b⟩ := encodeFrame_eq b false

/-- Settles O15: each frame is `cmd` of the command byte of its slot. -/
theorem cursorFramesInFixedOrder : Obligations.CursorFramesInFixedOrder := by
  intro cfg col page
  rw [cursorFrames, pageSelectCommand, colLowCommand, colHighCommand, nibbleMask, cmdFrame_eq, cmdFrame_eq, cmdFrame_eq]

/-! ### SETCUR (R104, R106) -/

/-- The contract check of a cursor setting adds to `CV_COL` and `CV_PAGE`, and never to `CV_WIDE`. -/
theorem Cv.or_cvCursor (a : Cv) (col page : Byte) :
    a.or (cvCursor col page) = ⟨a.col || decide (127 < col.toNat), a.page || decide (3 < page.toNat), a.wide⟩ := by
  simp [Cv.or, cvCursor]

/-- Settles O16: SETCUR is a request with three frames whatever its operands, so its Accept starts them and adds its flags to `CV`. -/
theorem setcurPlansItsThreeFrames : Obligations.SetcurPlansItsThreeFrames := by
  intro col page s hb hf
  have hpos : 0 < (cursorFrames s.cfg col page).length := by simp
  rw [exec_emitting_of_idle (i := .setcur col page) rfl trivial hb hf hpos, contractFlags, Cv.or_cvCursor, planOf]

end Sys2Proof.Machine

/-! The statements about the bitmap frame renderer (44_frame_renderer.md). -/

namespace Sys2Proof.Machine

/-! ### The glyph stream (R108) -/

/-- Settles O20: both clauses are inductions over the text, ten bytes of the stream for each character. -/
theorem glyphStreamConcatenatesGlyphs : Obligations.GlyphStreamConcatenatesGlyphs :=
  fun cfg t => ⟨glyphStream_length cfg t, glyphStream_getElem? cfg t⟩

/-! ### RENDER from an idle block (R110) -/

/-- A render has its three cursor frames even without a character, so its Accept always starts a plan. -/
theorem exec_render_of_idle (x : BitVec 32) (page : Byte) {n : Byte} {s : State} (hb : s.busy = false) (hf : s.fatal = false)
    (ht : n.toNat ≤ s.txt.length) :
    exec (.render x page n) s = .next { s with
      cv := s.cv.or (cvRender x page n), plan := planRender s.cfg x page (s.txt.take n.toNat), k := 0, busy := true } := by
  have hpos : 0 < (planRender s.cfg x page (s.txt.take n.toNat)).length := by rw [planRender_length]; omega
  exact exec_emitting_of_idle (i := .render x page n) rfl ht hb hf hpos

/-! ### The contract check (R109) -/

theorem cvRender_col (x : BitVec 32) (page n : Byte) : (cvRender x page n).col = true ↔ x.toInt < 0 ∨ 127 < x.toInt :=
  decide_eq_true_iff

theorem cvRender_page (x : BitVec 32) (page n : Byte) : (cvRender x page n).page = true ↔ 3 < page.toNat :=
  decide_eq_true_iff

theorem cvRender_wide (x : BitVec 32) (page n : Byte) : (cvRender x page n).wide = true ↔ 128 < 10 * n.toNat :=
  decide_eq_true_iff

/-- Twelve characters are the most that fit into the 128 columns. -/
theorem cvRender_wide_iff_length (x : BitVec 32) (page n : Byte) : (cvRender x page n).wide = true ↔ 13 ≤ n.toNat := by
  rw [cvRender_wide]; omega

/-- Settles O21: each flag by its condition, and Accept ORs the flags into `CV` and starts the plan whatever they are. -/
theorem renderContractCheck : Obligations.RenderContractCheck :=
  fun x page n _ hb hf ht => ⟨cvRender_col x page n, cvRender_page x page n, cvRender_wide x page n,
    cvRender_wide_iff_length x page n, _, exec_render_of_idle x page hb hf ht, rfl, rfl, rfl, rfl, rfl⟩

/-! ### What the frames of a render depend on (R111) -/

/-- The addressed column is `x[7:0]`. -/
theorem renderColumn_eq_extractLsb' (x : BitVec 32) : renderColumn x = x.extractLsb' 0 8 :=
  BitVec.setWidth_eq_extractLsb' (by decide)

theorem planRender_congr_column {x y : BitVec 32} (h : x.extractLsb' 0 8 = y.extractLsb' 0 8) (cfg : Config) (page : Byte)
    (text : List Byte) : planRender cfg x page text = planRender cfg y page text := by
  rw [planRender, planRender, renderColumn_eq_extractLsb', renderColumn_eq_extractLsb', h]

/-- A latch that agrees with a long enough one on its first `n` bytes is long enough itself. -/
theorem le_length_of_take_eq {α : Type} {n : Nat} {l m : List α} (hl : n ≤ l.length) (h : l.take n = m.take n) : n ≤ m.length := by
  have hlen : (l.take n).length = (m.take n).length := congrArg List.length h
  rw [List.length_take_of_le hl, List.length_take] at hlen
  omega

/-- Settles O23: both renders start `planRender`, which reads the start column through `x[7:0]` alone. -/
theorem renderDependsOnLowColumnByte : Obligations.RenderDependsOnLowColumnByte := by
  intro x y page n s u hcfg hsb hsf hub huf hs htxt hxy
  have hu : n.toNat ≤ u.txt.length := le_length_of_take_eq hs htxt
  have hplan : planRender s.cfg x page (s.txt.take n.toNat) = planRender u.cfg y page (u.txt.take n.toNat) := by
    rw [hcfg, htxt, planRender_congr_column hxy]
  exact ⟨_, _, exec_render_of_idle x page hsb hsf hs, exec_render_of_idle y page hub huf hu, hplan, rfl, rfl⟩

end Sys2Proof.Machine

/-! The statements about exceptions and what raises none (60_exceptions.md). -/

namespace Sys2Proof.Machine

/-! ### Taking an exception (R123) -/

/-- Settles O39: each exception by its own case of `takeException`. -/
theorem exceptionEntrySavesStatusOnly : Obligations.ExceptionEntrySavesStatusOnly :=
  fun _ _ => ⟨rfl, rfl, rfl⟩

/-! ### LOOKUP and CENTER from an idle block (40_glyph_rom.md R91, 44_frame_renderer.md R112) -/

/-- LOOKUP, accepted by an idle block, `FATAL` or not. -/
theorem exec_lookup_of_idle (c : Byte) {s : State} (hb : s.busy = false) :
    exec (.lookup c) s = .next { s with lout := glyphOf s.cfg c, loutValid := true, plan := [], k := 0, status := .ok } :=
  congrArg Host.Outcome.next (acceptOutput_of_idle hb (writeLout c))

/-- CENTER, accepted by an idle block, `FATAL` or not. -/
theorem exec_center_of_idle (n : Byte) {s : State} (hb : s.busy = false) :
    exec (.center n) s =
      .next { s with xout := BitVec.ofInt 32 (centerColumn n), xoutValid := true, plan := [], k := 0, status := .ok } :=
  congrArg Host.Outcome.next (acceptOutput_of_idle hb (writeXout n))

/-- The division of R112 is exact: its dividend is `2 * (64 - 5 n)`. -/
theorem centerColumn_eq (n : Byte) : centerColumn n = 64 - 5 * (n.toNat : Int) :=
  Int.tdiv_eq_of_eq_mul_right (by decide) (by omega)

/-- The column of a text of up to 255 characters fits into `XOUT`. -/
theorem xout_toInt (n : Byte) : (BitVec.ofInt 32 (centerColumn n)).toInt = 64 - 5 * (n.toNat : Int) := by
  have hn : n.toNat < 256 := n.isLt
  rw [BitVec.toInt_ofInt, centerColumn_eq]
  exact Int.bmod_eq_of_le (by omega) (by omega)

/-! ### A character outside the alphabet (R119) -/

theorem glyphOf_unsupported {c : Byte} (h : c.toNat < 0x30 ∨ 0x3A < c.toNat) (cfg : Config) : glyphOf cfg c = glyphOf cfg 0x30 := by
  rw [glyphOf, glyphOf, glyphIndex_unsupported h, glyphIndex_digitZero]

/-- The stream reads a character through its glyph alone. -/
theorem glyphStream_congr_glyph {cfg : Config} {c d : Byte} (h : glyphOf cfg c = glyphOf cfg d) (before after : List Byte) :
    glyphStream cfg (before ++ c :: after) = glyphStream cfg (before ++ d :: after) := by
  rw [glyphStream_append, glyphStream_append, glyphStream_cons, glyphStream_cons, h]

/-- Settles O4: an unsupported code has the glyph of '0', and LOOKUP and the glyph stream of a text read a code through its glyph. -/
theorem unsupportedCharacterFallsBack : Obligations.UnsupportedCharacterFallsBack := by
  intro c s hc hb
  have hglyph : glyphOf s.cfg c = glyphOf s.cfg 0x30 := glyphOf_unsupported hc s.cfg
  refine ⟨⟨_, exec_lookup_of_idle c hb, rfl, hglyph⟩, fun x page before after => ?_⟩
  rw [planRender, planRender, glyphStream_congr_glyph hglyph]

/-! ### `OPEN_ERROR` (R116, 10_state.md R21) -/

/-- While `FATAL = 1` a request with frames only sets `STATUS`. -/
theorem exec_emitting_of_fatal {i : Instr} (hemit : emitsFrames i = true) {s : State} (ht : textReady s i) (hb : s.busy = false)
    (hf : s.fatal = true) : exec i s = .next { s with status := .openError } := by
  rw [exec_emitting hemit ht, acceptEmitting_of_fatal hb hf, takeException, ← hb]

/-- Reset alone writes `FATAL`. -/
theorem step_fatal_cases {s t : State} (h : step s = .next t) :
    (∃ (link : Link) (rest : List HostEvent), s.inbox = .reset link :: rest ∧ t.fatal = decide (link = .openFail)) ∨
    t.fatal = s.fatal := by
  cases step_cases h with
  | idle _ _ _ ht => exact .inr (by rw [ht])
  | emit _ _ _ _ _ ht => exact .inr (by rw [ht, emitEntry_fatal])
  | illegal _ _ _ _ _ ht => exact .inr (by rw [ht, takeException_fatal, latchRequest_fatal])
  | emitting _ _ _ _ _ _ _ _ ht => exact .inr (by rw [ht, acceptEmitting_fatal, latchRequest_fatal])
  | lookup _ _ _ _ _ _ _ ht => exact .inr (by rw [ht, startPlan_fatal, writeLout_fatal, latchRequest_fatal])
  | center _ _ _ _ _ _ _ ht => exact .inr (by rw [ht, startPlan_fatal, writeXout_fatal, latchRequest_fatal])
  | read _ _ _ _ _ ht => exact .inr (by rw [ht])
  | reset link rest hin ht => exact .inl ⟨link, rest, hin, by rw [ht, hostReset_fatal]⟩

/-- Settles O27: Accept by the kind of its request, and the steps by what each does with `FATAL`. -/
theorem openErrorUntilReset : Obligations.OpenErrorUntilReset := by
  refine ⟨fun _ _ => decide_eq_true_iff, fun i s hb hf ht => ⟨fun hemit => exec_emitting_of_fatal hemit ht hb hf, ?_, ?_⟩, ?_⟩
  · rintro c rfl
    exact ⟨_, exec_lookup_of_idle c hb, rfl, rfl, rfl⟩
  · rintro n rfl
    exact ⟨_, exec_center_of_idle n hb, rfl, xout_toInt n, rfl⟩
  · intro s t h
    rcases step_fatal_cases h with ⟨link, rest, hin, hfatal⟩ | hfatal
    · exact .inl ⟨link, rest, hin, by rw [hfatal, decide_eq_true_iff]⟩
    · exact .inr hfatal

end Sys2Proof.Machine

/-! The statements about the decoder and the bits of a word (30_encoding.md sections 2 and 3). -/

namespace Sys2Proof.Machine

/-! ### Decoding what the encoder gives -/

/-- Settles O11: a request word's fields give back its operands, a frame's control byte tells the two kinds apart, and a cursor command
byte gives its operand back once its base is taken off. -/
theorem decodeEncodeRoundTrip : Obligations.DecodeEncodeRoundTrip := by
  intro cfg i hwf
  cases i with
  | frameCmd b => exact decodeFrame_number_cmd b
  | frameData b => exact decodeFrame_number_data b
  | ctlPageSelect page => simpa [decode, encode, decodeCursorByte, base_add_sub, Instr.wf] using hwf
  | ctlColLo nibble => simpa [decode, encode, decodeCursorByte, base_add_sub, Instr.wf] using hwf
  | ctlColHi nibble => simpa [decode, encode, decodeCursorByte, base_add_sub, Instr.wf] using hwf
  | _ => simp [decode, encode, decodeRequest]

/-- Settles O10, by evaluation: the words are closed, and the reference configuration's bases are numerals. -/
theorem writtenOutWordsDecode : Obligations.WrittenOutWordsDecode :=
  ⟨rfl, rfl, rfl, rfl, rfl, rfl, rfl, rfl, rfl, rfl, rfl, rfl, rfl⟩

/-! ### The fields an operation reads (R71) -/

theorem op_reserved_or_named (op : BitVec 4) : (op = 0 ∨ 8 ≤ op.toNat) ∨
    op = 0x1 ∨ op = 0x2 ∨ op = 0x3 ∨ op = 0x4 ∨ op = 0x5 ∨ op = 0x6 ∨ op = 0x7 := by
  revert op; decide

/-- Two words with the same low byte decode alike when they agree in the fields that their operation reads. -/
theorem decodeRequest_congr {w v : BitVec 64} (hlow : w.extractLsb' 0 8 = v.extractLsb' 0 8)
    (hA : reqOp w = 0x1 ∨ reqOp w = 0x2 ∨ reqOp w = 0x4 ∨ reqOp w = 0x6 → reqA w = reqA v)
    (hB : reqOp w = 0x4 ∨ reqOp w = 0x7 → reqB w = reqB v)
    (hNX : reqOp w = 0x6 → reqN w = reqN v ∧ reqX w = reqX v) : decodeRequest w = decodeRequest v := by
  have hop : reqOp w = reqOp v := by rw [reqOp_eq_low, reqOp_eq_low, hlow]
  have hd : reqD w = reqD v := by rw [reqD_eq_low, reqD_eq_low, hlow]
  have hrsv : reqRsv w = reqRsv v := by rw [reqRsv_eq_low, reqRsv_eq_low, hlow]
  rw [hop] at hA hB hNX
  unfold decodeRequest
  rw [hop, hd, hrsv]
  rcases op_reserved_or_named (reqOp v) with hres | h | h | h | h | h | h | h
  case inl => split_ifs <;> simp_all
  all_goals simp_all

/-- Settles O12: each clause names the fields its operations read. -/
theorem ignoredFieldsChangeNothing : Obligations.IgnoredFieldsChangeNothing := by
  intro w v hlow
  refine ⟨fun hop hA => ?_, fun hop => ?_, fun hop hA hB => ?_, fun hop hA hN hX => ?_, fun hop hB => ?_⟩
  · refine decodeRequest_congr hlow (fun _ => hA) ?_ ?_ <;> rcases hop with h | h <;> simp [h]
  · refine decodeRequest_congr hlow ?_ ?_ ?_ <;> rcases hop with h | h <;> simp [h]
  · exact decodeRequest_congr hlow (fun _ => hA) (fun _ => hB) (by simp [hop])
  · exact decodeRequest_congr hlow (fun _ => hA) (by simp [hop]) (fun _ => ⟨hN, hX⟩)
  · exact decodeRequest_congr hlow (by simp [hop]) (fun _ => hB) (by simp [hop])

/-! ### The column from its two nibbles (R82) -/

theorem nibble_toNat_lt (v : Byte) : (v &&& nibbleMask).toNat < 16 := by
  rw [nibbleMask, toNat_and_nibble]; omega

theorem nibbles_recombine (c : Byte) : (c &&& nibbleMask) ||| (((c >>> 4) &&& nibbleMask) <<< 4) = c := by
  revert c; decide

/-- Settles O8: a base with a zero low nibble leaves the operand in the low nibble of its command byte, and the two nibbles make up the
column. -/
theorem columnIsRecoveredFromNibbles : Obligations.ColumnIsRecoveredFromNibbles := by
  intro cfg col page lo hi hloBase hhiBase hlo hhi
  obtain rfl := Option.some.inj hlo
  obtain rfl := Option.some.inj hhi
  have hl : colLowCommand cfg col &&& nibbleMask = col &&& nibbleMask := nibble_of_base_add hloBase (nibble_toNat_lt _)
  have hh : colHighCommand cfg col &&& nibbleMask = (col >>> 4) &&& nibbleMask := nibble_of_base_add hhiBase (nibble_toNat_lt _)
  have hcol : (colLowCommand cfg col &&& nibbleMask) ||| ((colHighCommand cfg col &&& nibbleMask) <<< 4) = col := by
    rw [hl, hh, nibbles_recombine]
  exact hcol.symm

end Sys2Proof.Machine

/-! The statements about the plans of CLEAR and RENDER, about CENTER, and about REFRESH (44_frame_renderer.md, 30_encoding.md R87). -/

namespace Sys2Proof.Machine

/-! ### CENTER (R112, R113) and REFRESH (30_encoding.md R87) -/

/-- Settles O25: the dividend is twice `64 - 5 n`. -/
theorem centeringDivisionIsExact : Obligations.CenteringDivisionIsExact := by
  refine ⟨fun n => ?_, centerColumn_eq⟩
  have hdiv : Int.tdiv (128 - 10 * n) 2 = 64 - 5 * n := Int.tdiv_eq_of_eq_mul_right (by decide) (by omega)
  exact ⟨by omega, hdiv, by rw [hdiv]; omega⟩

/-- Settles O24: CENTER from an idle block, its column read back from `XOUT`. -/
theorem centerWritesColumnAndCompletes : Obligations.CenterWritesColumnAndCompletes :=
  fun n _ hb => ⟨_, xout_toInt n, exec_center_of_idle n hb⟩

/-- Settles O14: the render's column is the one that CENTER of the text's length leaves in `XOUT`. -/
theorem refreshRendersAtTheCenteredColumn : Obligations.RefreshRendersAtTheCenteredColumn := by
  intro text s hlen hb
  have hn : (BitVec.ofNat 8 text.length).toNat = text.length := by rw [BitVec.toNat_ofNat]; omega
  have hx := xout_toInt (BitVec.ofNat 8 text.length)
  rw [hn] at hx
  refine ⟨BitVec.ofInt 32 (centerColumn (BitVec.ofNat 8 text.length)), ?_, hx, _, exec_center_of_idle _ hb, rfl⟩
  rw [assemble, asmLength_of_le hlen, ← hx, asmRender_eq _ _ hlen]
  rfl

/-! ### CLEAR (R107) -/

/-- Settles O19: the plan page by page, each page its cursor frames at column 0 and then the zero bytes. -/
theorem clearPlansFourZeroedPages : Obligations.ClearPlansFourZeroedPages := by
  intro s hb hf
  have hpos : 0 < (planClear s.cfg).length := by rw [planClear_length]; decide
  refine ⟨planClear s.cfg, ?_, planClear_length s.cfg, fun p hp => ⟨?_, ?_, ?_, fun i hi => ?_⟩⟩
  · rw [exec_emitting_of_idle (i := .clear) rfl trivial hb hf hpos, contractFlags, Cv.or_none, planOf]
  · exact planClear_getElem? s.cfg hp (r := 0) (by decide)
  · rw [planClear_getElem? s.cfg hp (r := 1) (by decide)]
    simp [clearPage, cursorFrames, cmdFrame_eq, colLowCommand]
  · rw [planClear_getElem? s.cfg hp (r := 2) (by decide)]
    simp [clearPage, cursorFrames, cmdFrame_eq, colHighCommand]
  · rw [Nat.add_assoc, planClear_getElem? s.cfg hp (r := 3 + i) (by omega)]
    exact clearPage_data (by unfold displayCols; omega)

/-! ### RENDER (R110) -/

/-- The entries of a render behind its cursor frames: byte `j` of the glyph of character `i`. -/
theorem planRender_getElem? (cfg : Config) (x : BitVec 32) (page : Byte) {text : List Byte} {i : Nat} {c : Byte}
    (hc : text[i]? = some c) (j : Fin 10) :
    (planRender cfg x page text)[3 + 10 * i + j.val]? = some (dataEntry (glyphRead cfg (glyphIndex c) j)) := by
  rw [planRender, Nat.add_assoc, List.getElem?_append_right (by simp), cursorFrames_length, Nat.add_sub_cancel_left,
    List.getElem?_map, glyphStream_getElem? cfg text i c j hc]
  rfl

/-- Settles O22: Accept starts `planRender` of the first `n` bytes of the latch. -/
theorem renderPlansItsGlyphs : Obligations.RenderPlansItsGlyphs := by
  intro x page n s hb hf ht
  refine ⟨planRender s.cfg x page (s.txt.take n.toNat), exec_render_of_idle x page hb hf ht, ?_, ?_, fun i c j hi hc => ?_⟩
  · rw [planRender_length, List.length_take_of_le ht]
  · rw [ofInt_toInt_byte]; rfl
  · exact planRender_getElem? s.cfg x page (by rw [List.getElem?_take_of_lt hi, hc]) j

/-- Settles O26: each plan has its own length, and an 8-bit `n` bounds the text of a render. -/
theorem planSizes : Obligations.PlanSizes := by
  intro cfg x page text
  refine ⟨planRender_length cfg x page text, fun h => by rw [planRender_length]; omega, planClear_length cfg, planInit_length cfg,
    fun i text' hi => ?_⟩
  cases i with
  | init => exact absurd rfl hi
  | render y p n =>
    have := n.isLt
    rw [planOf, planRender_length, List.length_take]; omega
  | _ => simp [planOf]

end Sys2Proof.Machine

/-! The statements about Accept: what a presented request does, and what it leaves (10_state.md R35, R37, 60_exceptions.md). -/

namespace Sys2Proof.Machine

/-! ### One step, by the host's next event (10_state.md R35 to R37) -/

theorem step_quiet {s : State} (hin : s.inbox = []) : step s = blockStep s := by
  simp only [step, takeStep, hin]

theorem step_wait {s : State} {rest : List HostEvent} (hin : s.inbox = .wait :: rest) :
    step s = blockStep { s with inbox := rest } := by
  simp only [step, takeStep, hin]

theorem step_readLout {s : State} {rest : List HostEvent} (hin : s.inbox = .readLout :: rest) :
    step s = readLoutReg { s with inbox := rest } := by
  simp only [step, takeStep, hin]

theorem step_readXout {s : State} {rest : List HostEvent} (hin : s.inbox = .readXout :: rest) :
    step s = readXoutReg { s with inbox := rest } := by
  simp only [step, takeStep, hin]

section
variable {s : State} {w : BitVec 64} {text : List Byte} {rest : List HostEvent} (hin : s.inbox = .request w text :: rest)
include hin

theorem step_request_busy (hb : s.busy = true) : step s = blockStep s := by
  simp only [step, takeStep, hin, hb, if_true]

theorem step_request_idle (hb : s.busy = false) : step s = acceptRequest w text { s with inbox := rest } := by
  simp only [step, takeStep, hin, hb, Bool.false_eq_true, if_false]

theorem step_request_ok {i : Instr} (hb : s.busy = false) (hi : decodeRequest w = .ok i) :
    step s = exec i (latchRequest w text { s with inbox := rest }) := by
  simp only [step_request_idle hin hb, acceptRequest, decode, hi]

theorem step_request_error {e : DecodeError} (hb : s.busy = false) (he : decodeRequest w = .error e) :
    step s = .next (takeException .illegalRequest (latchRequest w text { s with inbox := rest })) := by
  simp only [step_request_idle hin hb, acceptRequest, decode, he]
end

/-! ### What Accept does -/

/-- Settles O30: Accept latches the request and runs what it decodes to. -/
theorem stepRunsPresentedRequest : Obligations.StepRunsPresentedRequest :=
  fun _ _ _ _ _ hin hb hi => step_request_ok hin hb hi

/-- Settles O3: LOOKUP from an idle block. -/
theorem lookupWritesGlyphAndCompletes : Obligations.LookupWritesGlyphAndCompletes :=
  fun c _ hb => exec_lookup_of_idle c hb

/-- Settles O17: Accept of a request with a plan of one frame and no contract flags. -/
theorem cmdAndDataPlanOneFrame : Obligations.CmdAndDataPlanOneFrame := by
  refine fun b s hb hf => ⟨?_, ?_⟩
  · rw [exec_emitting_of_idle (i := .cmd b) rfl trivial hb hf Nat.one_pos, contractFlags, Cv.or_none, planOf, cmdFrame_eq]
  · rw [exec_emitting_of_idle (i := .data b) rfl trivial hb hf Nat.one_pos, contractFlags, Cv.or_none, planOf]
    rfl

/-- Settles O28: a word that is not `Legal` does not decode, and the exception leaves an idle block idle. -/
theorem illegalWordCompletesAtAccept : Obligations.IllegalWordCompletesAtAccept := by
  intro s w text rest hin hb hw
  cases hi : decodeRequest w with
  | ok i => rw [(legalRequest_iff_decodes w).mpr ⟨i, hi⟩] at hw; cases hw
  | error e => rw [step_request_error hin hb hi, takeException, latchRequest, ← hb]

/-! ### RENDER and its text (30_encoding.md R72) -/

theorem decodeRequest_of_legal_render {w : BitVec 64} (hw : legalRequest w = true) (hop : reqOp w = 0x6) :
    decodeRequest w = .ok (.render (reqX w) (reqA w) (reqN w)) := by
  obtain ⟨-, hrsv, hd⟩ := (legalRequest_iff w).mp hw
  have hd : reqD w = 0 := hd.resolve_right (by rw [hop]; decide)
  simp [decodeRequest, hrsv, hop, hd]

/-- Bytes of text beyond `N` never reach the latch. -/
theorem latchRequest_append {w : BitVec 64} {text : List Byte} (h : (reqN w).toNat ≤ text.length) (extra : List Byte) (s : State) :
    latchRequest w (text ++ extra) s = latchRequest w text s := by
  rw [latchRequest, latchRequest, List.take_append_of_le_length h]

/-- Settles O29: the latch holds the first `N` bytes of what came, and RENDER tests its length. -/
theorem renderNeedsItsText : Obligations.RenderNeedsItsText := by
  intro s w text extra rest hb hw hop
  have hstep (u : List Byte) : step { s with inbox := .request w u :: rest } =
      exec (.render (reqX w) (reqA w) (reqN w)) (latchRequest w u { s with inbox := rest }) :=
    step_request_ok rfl hb (decodeRequest_of_legal_render hw hop)
  have htxt : (latchRequest w text { s with inbox := rest }).txt = text.take (reqN w).toNat := if_pos hop
  rw [hstep, hstep]
  refine ⟨fun hlen => exec_no_text ?_, fun hlen => ⟨by rw [latchRequest_append hlen], ?_⟩⟩
  · rw [textReady, htxt, List.length_take]; omega
  · have ht : textReady (latchRequest w text { s with inbox := rest }) (.render (reqX w) (reqA w) (reqN w)) := by
      rw [textReady, htxt, List.length_take]; omega
    exact ⟨_, exec_emitting rfl ht, by rw [acceptEmitting_txt, htxt]⟩

/-! ### The latches (10_state.md R17, R18) -/

/-- Outside reset, a step latches an accepted request whole, or it accepts none and the latches stay. -/
theorem step_latch_cases {s t : State} (h : step s = .next t)
    (hr : ∀ (link : Link) (rest : List HostEvent), s.inbox ≠ .reset link :: rest) :
    (∃ w text rest, s.inbox = .request w text :: rest ∧ s.busy = false ∧ t.req = w ∧ t.txt = (latchRequest w text s).txt) ∨
    ((s.busy = true ∨ ∀ w text rest, s.inbox ≠ .request w text :: rest) ∧ t.req = s.req ∧ t.txt = s.txt) := by
  cases step_cases h with
  | idle rest _ hin ht =>
    refine .inr ⟨.inr fun w text rest' => ?_, by rw [ht], by rw [ht]⟩
    rcases hin with ⟨hin, -⟩ | hin <;> simp [hin]
  | emit _ _ hb _ _ ht => exact .inr ⟨.inl hb, by rw [ht, emitEntry_req], by rw [ht, emitEntry_txt]⟩
  | illegal w text rest hb hin ht => exact .inl ⟨w, text, rest, hin, hb, by rw [ht]; rfl, by rw [ht]; rfl⟩
  | emitting w text rest i hb hin _ _ ht =>
    exact .inl ⟨w, text, rest, hin, hb, by rw [ht, acceptEmitting_req]; rfl, by rw [ht, acceptEmitting_txt]; rfl⟩
  | lookup w text rest c hb hin _ ht => exact .inl ⟨w, text, rest, hin, hb, by rw [ht]; rfl, by rw [ht]; rfl⟩
  | center w text rest n hb hin _ ht => exact .inl ⟨w, text, rest, hin, hb, by rw [ht]; rfl, by rw [ht]; rfl⟩
  | read event rest d hin hread ht =>
    refine .inr ⟨.inr fun w text rest' => ?_, by rw [ht], by rw [ht]⟩
    rcases hread with rfl | rfl | rfl <;> simp [hin]
  | reset link rest hin _ => exact absurd hin (hr link rest)

/-- The latch takes at most as many bytes as an 8-bit `N` names. -/
theorem latchRequest_txt_length_le (w : BitVec 64) (text : List Byte) (s : State) : (latchRequest w text s).txt.length ≤ 255 := by
  have := (reqN w).isLt
  rw [latchRequest_txt]
  split
  · rw [List.length_take]; omega
  · exact Nat.zero_le _

/-- Settles O32: the two cases exclude each other. -/
theorem latchesAreWrittenOnlyAtAccept : Obligations.LatchesAreWrittenOnlyAtAccept := by
  intro s t h hr
  rcases step_latch_cases h hr with ⟨w, text, rest, hin, hb, hreq, htxt⟩ | ⟨hno, hkeep⟩
  · refine ⟨fun w' text' rest' hin' _ => ?_, fun hno => absurd hno (by simp [hb, hin])⟩
    obtain ⟨⟨rfl, rfl⟩, rfl⟩ : (w = w' ∧ text = text') ∧ rest = rest' := by simpa [hin] using hin'
    exact ⟨hreq, htxt, htxt ▸ latchRequest_txt_length_le w text s⟩
  · exact ⟨fun w text rest hin hb => absurd hno (by simp [hb, hin]), fun _ => hkeep⟩

/-! ### A request while `BUSY = 1` (10_state.md R37) -/

/-- The requests without frames (40_glyph_rom.md R91, 44_frame_renderer.md R112). -/
theorem lookup_or_center_of_silent {i : Instr} (hi : isRequest i = true) (he : ¬ emitsFrames i = true) :
    (∃ c, i = .lookup c) ∨ ∃ n, i = .center n := by
  cases i with
  | lookup c => exact .inl ⟨c, rfl⟩
  | center n => exact .inr ⟨n, rfl⟩
  | _ => simp_all [isRequest, emitsFrames]

theorem exec_request_of_busy {i : Instr} (hi : isRequest i = true) {s : State} (ht : textReady s i) (hb : s.busy = true) :
    exec i s = .next s := by
  by_cases he : emitsFrames i = true
  · rw [exec_emitting he ht, acceptEmitting_of_busy hb]
  · rcases lookup_or_center_of_silent hi he with ⟨c, rfl⟩ | ⟨n, rfl⟩
    · exact congrArg Host.Outcome.next (acceptOutput_of_busy hb _)
    · exact congrArg Host.Outcome.next (acceptOutput_of_busy hb _)

/-- Settles O33: the block's step emits its frame, which touches neither the inbox nor the latches, the plan or `CV`. -/
theorem busyHoldsTheRequest : Obligations.BusyHoldsTheRequest := by
  refine ⟨fun s t w text rest hb hin h => ?_, fun s i hb hi ht => exec_request_of_busy hi ht hb⟩
  rw [step_request_busy hin hb] at h
  rcases blockStep_next h with ⟨hidle, -⟩ | ⟨e, -, -, rfl⟩
  · rw [hb] at hidle; cases hidle
  · exact ⟨emitEntry_inbox s e, emitEntry_req s e, emitEntry_txt s e, emitEntry_plan s e, emitEntry_cv s e⟩

/-! ### Host reads, and what no step writes (10_state.md R27, R28, R31 to R33) -/

/-- Settles O41: the test of the valid bit is the whole of each read. -/
theorem outputReadsNeedTheirValidBit : Obligations.OutputReadsNeedTheirValidBit := by
  refine fun s rest => ⟨fun hin => ?_, fun hin => ?_⟩
  · rw [step_readLout hin, readLoutReg]
    exact ⟨fun hv => if_neg (by simp [hv]), fun hv => if_pos hv⟩
  · rw [step_readXout hin, readXoutReg]
    exact ⟨fun hv => if_neg (by simp [hv]), fun hv => if_pos hv⟩

/-- Settles O45: none of the updates a step is made of writes the configuration. -/
theorem configurationIsNeverWritten : Obligations.ConfigurationIsNeverWritten := by
  intro s t h
  cases step_cases h with
  | idle _ _ _ ht => rw [ht]
  | emit _ _ _ _ _ ht => rw [ht, emitEntry_cfg]
  | illegal _ _ _ _ _ ht => rw [ht, takeException_cfg, latchRequest_cfg]
  | emitting _ _ _ _ _ _ _ _ ht => rw [ht, acceptEmitting_cfg, latchRequest_cfg]
  | lookup _ _ _ _ _ _ _ ht => rw [ht, startPlan_cfg, writeLout_cfg, latchRequest_cfg]
  | center _ _ _ _ _ _ _ ht => rw [ht, startPlan_cfg, writeXout_cfg, latchRequest_cfg]
  | read _ _ _ _ _ ht => rw [ht]
  | reset _ _ _ ht => rw [ht, hostReset_cfg]

end Sys2Proof.Machine

/-! The statements about Emit: the frame at `PLAN[K]` and the transport's answer (10_state.md R36, R38). -/

namespace Sys2Proof.Machine

/-! ### The instruction of the current frame -/

/-- Settles O31: whatever the host's event, the block's step is `exec` of the fetched frame. -/
theorem stepEmitsDecodedEntry : Obligations.StepEmitsDecodedEntry := by
  intro s e i hb he hi
  have hcur := currentEntry_eq_some.mpr ⟨hb, he⟩
  refine ⟨fun hin => ?_, fun w text rest hin => ?_, fun rest hin => ?_⟩
  · rw [step_quiet hin, blockStep_eq_exec hcur hi]
  · rw [step_request_busy hin hb, blockStep_eq_exec hcur hi]
  · exact (step_wait hin).trans (blockStep_eq_exec (s := { s with inbox := rest }) hcur hi)

theorem exec_frameCmd_of_current {s : State} {e : PlanEntry} {b : Byte} (h : currentEntry s = some e) (hf : e.frame = ⟨0x00, b⟩) :
    exec (.frameCmd b) s = .next (emitEntry e s) :=
  emitWhen_next h (decide_eq_true hf)

theorem exec_frameData_of_current {s : State} {e : PlanEntry} {b : Byte} (h : currentEntry s = some e) (hf : e.frame = ⟨0x40, b⟩) :
    exec (.frameData b) s = .next (emitEntry e s) :=
  emitWhen_next h (decide_eq_true hf)

/-! ### What an answered frame leaves -/

theorem emitEntry_delivered {s : State} (hb : s.busy = true) (hr : nextReply s = .ok) (e : PlanEntry) :
    emitEntry e s = { consumeReply s with
      hist := s.hist ++ [⟨e.frame, .ok, e.tag⟩], disp := dispStep s.disp ⟨e.frame, .ok, e.tag⟩, k := s.k + 1,
      status := if (s.k + 1).toNat = s.plan.length then .ok else s.status,
      busy := decide ((s.k + 1).toNat ≠ s.plan.length) } := by
  rw [emitEntry_ok hr, advance_eq]
  simp [recordWrite, hb]

theorem emitEntry_failed {s : State} (hr : nextReply s = .err) (e : PlanEntry) :
    emitEntry e s = { consumeReply s with
      hist := s.hist ++ [⟨e.frame, .err, e.tag⟩], disp := dispStep s.disp ⟨e.frame, .err, e.tag⟩,
      status := .writeError, failidx := s.k, busy := false } := by
  rw [emitEntry_err hr]
  simp [takeException, recordWrite]

/-- Settles O34: both frame kinds are the Emit step of the current frame. -/
theorem deliveredFrameAdvancesThePlan : Obligations.DeliveredFrameAdvancesThePlan := by
  intro s e b hb he hr
  have hcur := currentEntry_eq_some.mpr ⟨hb, he⟩
  rw [← emitEntry_delivered hb hr]
  exact ⟨exec_frameCmd_of_current hcur, exec_frameData_of_current hcur⟩

/-- Settles O35: both frame kinds are the Emit step of the current frame. -/
theorem failedFrameEndsTheRequest : Obligations.FailedFrameEndsTheRequest := by
  intro s e b hb he hr
  have hcur := currentEntry_eq_some.mpr ⟨hb, he⟩
  rw [← emitEntry_failed hr]
  exact ⟨exec_frameCmd_of_current hcur, exec_frameData_of_current hcur⟩

/-! ### The cursor command bytes (43_addressing.md R103) -/

theorem isCursorEntry_iff {slot slot' : CursorSlot} {col page b : Byte} {f : Frame} :
    isCursorEntry slot b ⟨f, .addr slot' col page⟩ = true ↔ slot' = slot ∧ f = cmdFrame b := by
  simp [isCursorEntry]

theorem isCursorEntry_other_frame {b : Byte} {e : PlanEntry} (h : e.frame ≠ cmdFrame b) (slot : CursorSlot) :
    isCursorEntry slot b e = false := by
  obtain ⟨f, tag⟩ := e
  cases tag <;> simp_all [isCursorEntry]

/-- An instruction that is the Emit step of the current command frame is `FRAME.CMD` of its byte there. -/
theorem exec_eq_frameCmd_of_emits {s : State} {f : Frame} {tag : Tag} {b : Byte} {i : Instr} (hb : s.busy = true)
    (hcur : currentEntry s = some ⟨f, tag⟩) (hf : f = ⟨0x00, b⟩) (hi : exec i s = .next (emitEntry ⟨f, tag⟩ s)) :
    exec i s = exec (.frameCmd b) s ∧ ∃ t, exec i s = .next t ∧
      (nextReply s = .ok → t.k = s.k + 1 ∧ t.hist = s.hist ++ [⟨f, .ok, tag⟩]) :=
  ⟨hi.trans (exec_frameCmd_of_current hcur hf).symm, _, hi, fun hr => by rw [emitEntry_delivered hb hr]; exact ⟨rfl, rfl⟩⟩

/-- Settles O36: each of the three instructions is the Emit step of its frame. -/
theorem cursorBytesAreTheirFrames : Obligations.CursorBytesAreTheirFrames := by
  intro s f v col page slot hb he
  have hcur := currentEntry_eq_some.mpr ⟨hb, he⟩
  refine ⟨fun hslot hf => ?_, fun hslot hf => ?_, fun hslot hf => ?_⟩ <;>
    exact exec_eq_frameCmd_of_emits hb hcur hf (emitWhen_next hcur (isCursorEntry_iff.mpr ⟨hslot, hf⟩))

/-- Settles O37: an idle block stands at no frame, and another frame is not the wanted one. -/
theorem emitOnlyWhenEnabled : Obligations.EmitOnlyWhenEnabled := by
  refine fun s b => ⟨fun hb => ?_, fun e hb he => ?_⟩
  · exact ⟨emitWhen_idle hb _, emitWhen_idle hb _, emitWhen_idle hb _, emitWhen_idle hb _, emitWhen_idle hb _⟩
  · have hcur := currentEntry_eq_some.mpr ⟨hb, he⟩
    have hcursor {slot : CursorSlot} {v : Byte} (hf : e.frame ≠ ⟨0x00, v⟩) :
        emitWhen (isCursorEntry slot v) s = .refused .emitNotEnabled :=
      emitWhen_other hcur (isCursorEntry_other_frame hf slot)
    exact ⟨fun hf => emitWhen_other hcur (decide_eq_false hf), fun hf => emitWhen_other hcur (decide_eq_false hf), hcursor, hcursor,
      hcursor⟩

/-! ### A silent transport (R38) -/

/-- A state that a step leaves as it is stays for ever. -/
theorem run_of_step_self {s : State} (h : step s = .next s) (n : Nat) : Sys2Proof.core.run n s = .next s := by
  induction n with
  | zero => rfl
  | succ n ih => rw [run_succ h, ih]

/-- Settles O38, by the reply to the Emit step of the current frame. -/
theorem silentTransportHangsTheRequest : Obligations.SilentTransportHangsTheRequest := by
  intro s hs hb hin
  obtain ⟨e, he⟩ := hs.current hb
  have hstep := step_emits hs hb hin he
  refine ⟨fun hr n => run_of_step_self (by rw [hstep, emitEntry_never hr]) n, fun hr => ⟨_, hstep, ?_⟩⟩
  rcases emitEntry_cases e s with ⟨hok, -⟩ | ⟨herr, -⟩ | ⟨hnever, -⟩
  · rw [emitEntry_delivered hb hok]
    exact ⟨by simp, .inl (hs.k_succ hb)⟩
  · rw [emitEntry_failed herr]
    exact ⟨by simp, .inr rfl⟩
  · exact absurd hnever hr

/-! ### The history (20_memory.md R57) -/

/-- An Emit step sends its frame, or the transport is silent and the history stays. -/
theorem emitEntry_hist_cases (e : PlanEntry) (s : State) :
    (emitEntry e s).hist = s.hist ∨
    ∃ r : Answer, (emitEntry e s).hist = s.hist ++ [⟨e.frame, r, e.tag⟩] ∧
      (emitEntry e s).disp = dispStep s.disp ⟨e.frame, r, e.tag⟩ := by
  rcases emitEntry_cases e s with ⟨-, h⟩ | ⟨-, h⟩ | ⟨-, h⟩ <;> rw [h]
  · exact .inr ⟨.ok, by simp, by simp⟩
  · exact .inr ⟨.err, by simp, by simp⟩
  · exact .inl rfl

/-- Settles O46: of the things a step can do, only Emit and reset write `HIST`. -/
theorem historyGrowsByTheCurrentFrame : Obligations.HistoryGrowsByTheCurrentFrame := by
  intro s t h hr
  cases step_cases h with
  | idle _ _ _ ht => exact .inl (by rw [ht])
  | emit rest e hb he _ ht =>
    subst ht
    rcases emitEntry_hist_cases e { s with inbox := rest } with hkeep | ⟨r, hhist, hdisp⟩
    · exact .inl hkeep
    · exact .inr ⟨e, r, hb, he, hhist, hdisp⟩
  | illegal _ _ _ _ _ ht => exact .inl (by rw [ht, takeException_hist, latchRequest_hist])
  | emitting _ _ _ _ _ _ _ _ ht => exact .inl (by rw [ht, acceptEmitting_hist, latchRequest_hist])
  | lookup _ _ _ _ _ _ _ ht => exact .inl (by rw [ht, startPlan_hist, writeLout_hist, latchRequest_hist])
  | center _ _ _ _ _ _ _ ht => exact .inl (by rw [ht, startPlan_hist, writeXout_hist, latchRequest_hist])
  | read _ _ _ _ _ ht => exact .inl (by rw [ht])
  | reset link rest hin _ => exact absurd hin (hr link rest)

end Sys2Proof.Machine

/-! The statements about what one history entry does to the display, and about its pixels (20_memory.md R64, R66). -/

namespace Sys2Proof.Machine

/-! ### Cursor, configuration and bytes -/

@[simp] theorem Disp.byteAt_forget (ctl : DispCtl) (c : Cursor) : (Disp.forget ctl).byteAt c = none := rfl
@[simp] theorem Disp.cur_forget (ctl : DispCtl) : (Disp.forget ctl).cur = none := rfl
@[simp] theorem Disp.ctl_forget (ctl : DispCtl) : (Disp.forget ctl).ctl = ctl := rfl

theorem Disp.paint_at_cursor {d : Disp} {c : Cursor} (hr : d.ctl = .ready) (hc : d.cur = some c) (b : Byte) :
    d.paint b = { d with ram := d.ram.write c.address b, cur := c.next } := by
  simp only [Disp.paint, hr, hc]

theorem Disp.paint_without_cursor {d : Disp} (h : d.ctl ≠ .ready ∨ d.cur = none) (b : Byte) : d.paint b = Disp.forget d.ctl := by
  unfold Disp.paint
  split <;> simp_all

theorem Disp.setCursor_in_range {d : Disp} (hr : d.ctl = .ready) {col page : Byte} {c : Cursor}
    (hc : cursorInRange col page = some c) : d.setCursor col page = { d with cur := some c } := by
  simp only [Disp.setCursor, hr, hc]

theorem Disp.setCursor_out_of_range {d : Disp} (hr : d.ctl = .ready) {col page : Byte} (hc : cursorInRange col page = none) :
    d.setCursor col page = Disp.forget .unknown := by
  simp only [Disp.setCursor, hr, hc]

theorem Disp.setCursor_not_ready {d : Disp} (hr : d.ctl ≠ .ready) (col page : Byte) :
    d.setCursor col page = { d with cur := none } := by
  unfold Disp.setCursor
  split <;> simp_all

/-- Settles O49: the delivered frame paints by the two equations of `paint`, and two cursors have two addresses. -/
theorem dataFramePaintsOneByte : Obligations.DataFramePaintsOneByte := by
  intro s b hb he hr
  have hexec := exec_frameData_of_current (currentEntry_eq_some.mpr ⟨hb, he⟩) rfl
  have hdisp : (emitEntry ⟨⟨0x40, b⟩, .data⟩ s).disp = s.disp.paint b := by rw [emitEntry_delivered hb hr]; rfl
  refine ⟨fun c hready hc => ⟨_, hexec, ?_⟩, fun hno => ⟨_, hexec, ?_⟩⟩
  · rw [hdisp, Disp.paint_at_cursor hready hc]
    exact ⟨Memory.read_write_same _ _ _, hready, rfl, fun c' hc' => Memory.read_write_other _ _ fun h => hc' (Cursor.address_inj h)⟩
  · rw [hdisp, Disp.paint_without_cursor hno]
    exact ⟨rfl, rfl, fun _ => rfl⟩

/-- Settles O50: frames 0 and 1 by their slot, frame 2 by the three equations of `setCursor`. -/
theorem cursorSettingMovesTheCursor : Obligations.CursorSettingMovesTheCursor := by
  intro d f col page slot
  refine ⟨fun hslot => ?_, ?_, ?_, ?_⟩
  · cases slot with
    | pageSelect => exact ⟨rfl, rfl, fun _ => rfl⟩
    | colLow => exact ⟨rfl, rfl, fun _ => rfl⟩
    | colHigh => exact absurd rfl hslot
  · rintro rfl hr hc hp
    exact ⟨⟨⟨col.toNat, by omega⟩, ⟨page.toNat, by omega⟩⟩, rfl, rfl, Disp.setCursor_in_range hr (dif_pos ⟨by omega, by omega⟩)⟩
  · rintro rfl hr hout
    have hset : dispStep d ⟨f, .ok, .addr .colHigh col page⟩ = Disp.forget .unknown :=
      Disp.setCursor_out_of_range hr (dif_neg (by omega))
    rw [hset]
    exact ⟨rfl, rfl, fun _ => rfl⟩
  · rintro rfl hr
    exact Disp.setCursor_not_ready hr col page

/-- Settles O51: in each of these cases the display forgets, and only the configuration depends on the case. -/
theorem unknownAfterFailureAndCommands : Obligations.UnknownAfterFailureAndCommands := by
  intro d f r tag h
  cases r with
  | err => cases tag <;> simp [dispStep, Disp.failed]
  | ok =>
    cases tag with
    | init last => cases last <;> simp [dispStep, Disp.delivered]
    | rawCmd => simp [dispStep, Disp.delivered]
    | data => simp at h
    | addr slot col page => simp at h

/-! ### Pixels (R66) -/

theorem Disp.pixel_eq_bit_of_byte {col : Fin 128} {row : Fin 32} {c : Cursor} (hcol : c.col = col) (hpage : c.page.val = row.val / 8)
    (d : Disp) (order : PixelBitOrder) :
    d.pixel order col row = (d.byteAt c).map fun b => b.getLsbD (pixelBit order ⟨row.val % 8, by omega⟩) := by
  obtain ⟨ccol, cpage, _⟩ := c
  obtain rfl : ccol = col := hcol
  obtain rfl : cpage = row.val / 8 := hpage
  rfl

/-- Settles O52: the byte is that of page `row / 8`, and counting from the top end is counting `7 - row mod 8` from the other. -/
theorem pixelIsOneBitOfItsByte : Obligations.PixelIsOneBitOfItsByte := by
  intro d col row c hcol hpage
  have hpixel := Disp.pixel_eq_bit_of_byte hcol hpage d
  refine ⟨fun hbyte order => by rw [hpixel, hbyte]; rfl, fun b hbyte => ⟨by rw [hpixel, hbyte]; rfl, ?_⟩⟩
  have hmsb : b.getMsbD (row.val % 8) = b.getLsbD (7 - row.val % 8) := by
    simp [BitVec.getMsbD, show row.val % 8 < 8 by omega]
  rw [hpixel, hbyte, hmsb]; rfl

end Sys2Proof.Machine

/-! The invariant: at reset, through every step, and the progress it gives (10_state.md, 60_exceptions.md R120). -/

namespace Sys2Proof.Machine

/-! ### Reset -/

theorem resetWith_inv {cfg : Config} (hcfg : cfg.Wf) (link : Link) : (State.resetWith cfg link).Inv where
  cfg_wf := hcfg
  plan_le := Nat.zero_le _
  k_le := Nat.le_refl 0
  busy_left := by simp [State.resetWith]
  plan_framed := by simp [State.resetWith]
  hist_framed := by simp [State.resetWith]
  txt_le := Nat.zero_le _
  fatal_silent := fun _ => ⟨rfl, rfl⟩
  disp_hist := rfl
  ram_wf := Memory.wf_unknown

/-- Settles O53, field by field: nothing is planned, sent or listed. -/
theorem resetMeetsTheInvariant : Obligations.ResetMeetsTheInvariant :=
  fun _ link hcfg => resetWith_inv hcfg link

theorem State.Inv.hostReset {s : State} (hs : s.Inv) (link : Link) : (hostReset link s).Inv :=
  (resetWith_inv hs.cfg_wf link).transfer rfl rfl rfl id rfl rfl rfl (Nat.zero_le _)

/-! ### Accept -/

/-- Accept of a request with frames: `OPEN_ERROR` while `FATAL`, and otherwise a plan of GRL's own frames is started. -/
theorem State.Inv.acceptEmitting {s : State} (hs : s.Inv) (hb : s.busy = false) (flags : Cv) {p : List PlanEntry}
    (hp : p.length ≤ 65535) (hfr : ∀ e ∈ p, framedAs s.cfg e.frame e.tag) : (acceptEmitting flags p s).Inv := by
  cases hf : s.fatal with
  | true => rw [acceptEmitting_of_fatal hb hf]; exact hs.takeException _
  | false =>
    rw [acceptEmitting_of_idle hb hf]
    have hcv : ({ s with cv := s.cv.or flags } : State).Inv := hs.transfer rfl rfl rfl id rfl rfl rfl hs.txt_le
    exact hcv.startPlan hb (fun h => by rw [hf] at h; cases h) hp hfr

theorem State.Inv.startPlan_nil {s : State} (hs : s.Inv) (hb : s.busy = false) : (Machine.startPlan [] s).Inv :=
  hs.startPlan hb (fun _ => rfl) (Nat.zero_le _) (by simp)

theorem State.Inv.writeLout {s : State} (hs : s.Inv) (c : Byte) : (writeLout c s).Inv :=
  hs.transfer rfl rfl rfl id rfl rfl rfl hs.txt_le

theorem State.Inv.writeXout {s : State} (hs : s.Inv) (n : Byte) : (writeXout n s).Inv :=
  hs.transfer rfl rfl rfl id rfl rfl rfl hs.txt_le

/-- Settles O54: each of the things a step can do is made of updates that keep the invariant. -/
theorem stepKeepsTheInvariant : Obligations.StepKeepsTheInvariant := by
  intro s t hs h
  have latched (w text rest) : (latchRequest w text { s with inbox := rest }).Inv := (hs.with_inbox rest).latchRequest w text
  cases step_cases h with
  | idle rest _ _ ht => exact ht ▸ hs.with_inbox rest
  | emit rest e hb he _ ht => exact ht ▸ (hs.with_inbox rest).emitEntry hb he
  | illegal w text rest _ _ ht => exact ht ▸ (latched w text rest).takeException _
  | emitting w text rest i hb _ _ _ ht =>
    exact ht ▸ (latched w text rest).acceptEmitting hb _ (planOf_length_le hs.cfg_wf i) (planOf_framed s.cfg _ i)
  | lookup w text rest c hb _ _ ht => exact ht ▸ ((latched w text rest).writeLout c).startPlan_nil hb
  | center w text rest n hb _ _ ht => exact ht ▸ ((latched w text rest).writeXout n).startPlan_nil hb
  | read _ rest d _ _ ht => exact ht ▸ hs.transfer rfl rfl rfl id rfl rfl rfl hs.txt_le
  | reset link rest _ ht => exact ht ▸ (hs.with_inbox rest).hostReset link

/-! ### Progress (60_exceptions.md R120) -/

/-- The block's step completes: there is a current frame while `BUSY = 1`, and a frame that GRL makes decodes. -/
theorem State.Inv.blockStep_completes {s : State} (hs : s.Inv) : ∃ t, blockStep s = .next t := by
  cases hb : s.busy with
  | false => exact ⟨s, by simp [blockStep, hb]⟩
  | true =>
    obtain ⟨e, he⟩ := hs.current hb
    have hcur := currentEntry_eq_some.mpr ⟨hb, he⟩
    obtain ⟨i, hi⟩ := decodeEntry_of_framed (hs.plan_framed e (List.mem_of_getElem? he))
    exact ⟨_, (blockStep_eq_exec hcur hi).trans (exec_of_decodeEntry hcur hi)⟩

/-- A request with its text on the latch completes its Accept. -/
theorem exec_request_completes {i : Instr} (hi : isRequest i = true) {s : State} (ht : textReady s i) : ∃ t, exec i s = .next t := by
  by_cases he : emitsFrames i = true
  · exact ⟨_, exec_emitting he ht⟩
  · rcases lookup_or_center_of_silent hi he with ⟨c, rfl⟩ | ⟨n, rfl⟩ <;> exact ⟨_, rfl⟩

theorem render_of_not_textReady {i : Instr} {s : State} (ht : ¬ textReady s i) :
    ∃ x page n, i = .render x page n ∧ s.txt.length < n.toNat := by
  cases i with
  | render x page n => exact ⟨x, page, n, rfl, not_le.mp ht⟩
  | _ => exact absurd trivial ht

/-- A word whose request lacks its text after the latch is a RENDER that came with fewer than `N` bytes (30_encoding.md R72). -/
theorem short_text_of_not_textReady {w : BitVec 64} {i : Instr} (hi : decodeRequest w = .ok i) {text : List Byte} {s : State}
    (ht : ¬ textReady (latchRequest w text s) i) : reqOp w = 0x6 ∧ text.length < (reqN w).toNat := by
  obtain ⟨x, page, n, rfl, hlen⟩ := render_of_not_textReady ht
  obtain ⟨hop, rfl⟩ := decodeRequest_render hi
  rw [latchRequest_txt, if_pos hop, List.length_take] at hlen
  exact ⟨hop, by omega⟩

/-- Settles O55, by the host's next event: a read by its valid bit, an accepted word by whether it decodes and has its text. -/
theorem onlyTheHostCanStopTheMachine : Obligations.OnlyTheHostCanStopTheMachine := by
  intro s hs
  rcases hin : s.inbox with _ | ⟨event, rest⟩
  · exact .inl (step_quiet hin ▸ hs.blockStep_completes)
  cases event with
  | wait => exact .inl (step_wait hin ▸ (hs.with_inbox rest).blockStep_completes)
  | reset link => exact .inl ⟨_, step_reset hin⟩
  | readStatus => exact .inl ⟨_, (statusWordLayout.1 s).2 rest hin⟩
  | readLout =>
    obtain ⟨hfault, hnext⟩ := (outputReadsNeedTheirValidBit s rest).1 hin
    cases hv : s.loutValid with
    | true => exact .inl ⟨_, hnext hv⟩
    | false => exact .inr (.inl ⟨rest, rfl, rfl, hfault hv⟩)
  | readXout =>
    obtain ⟨hfault, hnext⟩ := (outputReadsNeedTheirValidBit s rest).2 hin
    cases hv : s.xoutValid with
    | true => exact .inl ⟨_, hnext hv⟩
    | false => exact .inr (.inr (.inl ⟨rest, rfl, rfl, hfault hv⟩))
  | request w text =>
    cases hb : s.busy with
    | true => exact .inl (step_request_busy hin hb ▸ hs.blockStep_completes)
    | false =>
      cases hi : decodeRequest w with
      | error e => exact .inl ⟨_, step_request_error hin hb hi⟩
      | ok i =>
        by_cases ht : textReady (latchRequest w text { s with inbox := rest }) i
        · exact .inl (step_request_ok hin hb hi ▸ exec_request_completes (decodeRequest_isRequest hi) ht)
        · obtain ⟨hop, hlen⟩ := short_text_of_not_textReady hi ht
          exact .inr (.inr (.inr ⟨w, text, rest, rfl, rfl, hop, hlen, (step_request_ok hin hb hi).trans (exec_no_text ht)⟩))

end Sys2Proof.Machine

/-! The statements about whole requests: runs over the rest of a plan (10_state.md R36, R39, 60_exceptions.md R115). -/

namespace Sys2Proof.Machine

/-! ### The frames left -/

theorem restOfPlan_length (s : State) : (restOfPlan s).length = s.plan.length - s.k.toNat := by
  rw [restOfPlan, List.length_drop]

theorem restOfPlan_getElem? (s : State) (j : Nat) : (restOfPlan s)[j]? = s.plan[s.k.toNat + j]? := by
  rw [restOfPlan, List.getElem?_drop]

theorem deliveredEntries_append (p q : List PlanEntry) : deliveredEntries (p ++ q) = deliveredEntries p ++ deliveredEntries q :=
  List.map_append

@[simp] theorem deliveredEntries_length (p : List PlanEntry) : (deliveredEntries p).length = p.length := List.length_map _

theorem deliveredEntries_frames (plan : List PlanEntry) :
    (deliveredEntries plan).map (fun h => h.frame) = plan.map (fun e => e.frame) := by
  simp [deliveredEntries]

/-- An index into the plan fits into `K` (R25). -/
theorem State.Inv.index_toNat {s : State} (hs : s.Inv) {i : Nat} (hi : i ≤ s.plan.length) : (BitVec.ofNat 16 i).toNat = i := by
  have := hs.plan_le
  rw [BitVec.toNat_ofNat]; omega

/-! ### After some frames, and after all -/

/-- The state after the next `m` frames are delivered, with more of the plan to come. -/
def deliveredState (s : State) (m : Nat) (later : List TransportReply) : State :=
  { s with
    replies := later, hist := s.hist ++ deliveredEntries ((restOfPlan s).take m),
    disp := (deliveredEntries ((restOfPlan s).take m)).foldl dispStep s.disp, k := BitVec.ofNat 16 (s.k.toNat + m) }

@[simp] theorem deliveredState_plan (s : State) (m : Nat) (later : List TransportReply) :
    (deliveredState s m later).plan = s.plan := rfl

/-- The state in which a request has completed with `OK`: the rest of its plan is delivered. -/
def completedState (s : State) (later : List TransportReply) : State :=
  { s with
    replies := later, hist := s.hist ++ deliveredEntries (restOfPlan s),
    disp := (deliveredEntries (restOfPlan s)).foldl dispStep s.disp, k := BitVec.ofNat 16 s.plan.length, status := .ok, busy := false }

section
variable {s : State} {m : Nat} {e : PlanEntry} (he : (restOfPlan s)[m]? = some e)
include he

theorem index_lt_of_restOfPlan : s.k.toNat + m < s.plan.length := by
  rw [restOfPlan_getElem?] at he
  exact (List.getElem?_eq_some_iff.mp he).1

theorem deliveredState_k_toNat (hs : s.Inv) (later : List TransportReply) : (deliveredState s m later).k.toNat = s.k.toNat + m :=
  hs.index_toNat (index_lt_of_restOfPlan he).le

/-- The frame the sequencer stands at after `m` delivered ones. -/
theorem deliveredState_entry (hs : s.Inv) (later : List TransportReply) :
    (deliveredState s m later).plan[(deliveredState s m later).k.toNat]? = some e := by
  rw [deliveredState_k_toNat he hs, ← he, restOfPlan_getElem?]; rfl

theorem run_deliveredState (hs : s.Inv) (hb : s.busy = true) (hin : s.inbox = []) {later : List TransportReply}
    (hr : s.replies = List.replicate m .ok ++ later) :
    Sys2Proof.core.run m s = .next (deliveredState s m later) ∧ (deliveredState s m later).Inv := by
  obtain ⟨t, hrun, ht, heq, hk⟩ := run_delivered m s later hs hb hin (index_lt_of_restOfPlan he) hr
  have hstate : t = deliveredState s m later := heq.trans (by rw [deliveredState, ← hk, BitVec.ofNat_toNat, BitVec.setWidth_eq])
  exact hstate ▸ ⟨hrun, ht⟩

/-- One more step emits that frame. -/
theorem run_deliveredState_succ (hs : s.Inv) (hb : s.busy = true) (hin : s.inbox = []) {later : List TransportReply}
    (hr : s.replies = List.replicate m .ok ++ later) :
    Sys2Proof.core.run (m + 1) s = .next (emitEntry e (deliveredState s m later)) := by
  obtain ⟨hrun, ht⟩ := run_deliveredState he hs hb hin hr
  rw [run_add m s _ 1 hrun, run_succ (step_emits ht hb hin (deliveredState_entry he hs later))]
  rfl

/-- The last frame of the plan, delivered, completes the request (R36). -/
theorem emitEntry_last (hs : s.Inv) (hlast : (restOfPlan s).length = m + 1) (later : List TransportReply) :
    emitEntry e (deliveredState s m (.ok :: later)) = completedState s later := by
  have hlen := restOfPlan_length s
  have hrest : restOfPlan s = (restOfPlan s).take m ++ [e] := by
    have htake := List.take_add_one (l := restOfPlan s) (i := m)
    rwa [he, ← hlast, List.take_length] at htake
  have hk : (deliveredState s m (.ok :: later)).k + 1 = BitVec.ofNat 16 s.plan.length := by
    rw [show s.plan.length = s.k.toNat + m + 1 by omega, BitVec.ofNat_add]; rfl
  have hend : (BitVec.ofNat 16 s.plan.length).toNat = s.plan.length := hs.index_toNat le_rfl
  rw [emitEntry_ok_eq rfl, hk, deliveredState_plan, if_pos hend, if_pos hend, completedState, hrest, deliveredEntries_append,
    List.foldl_append, ← List.append_assoc]
  rfl
end

/-- A request whose remaining writes are all answered `OK` runs to its completion: all frames but the last, and then the last. -/
theorem run_completes {s : State} {later : List TransportReply} (hs : s.Inv) (hb : s.busy = true) (hin : s.inbox = [])
    (hr : s.replies = List.replicate (restOfPlan s).length .ok ++ later) :
    Sys2Proof.core.run (restOfPlan s).length s = .next (completedState s later) := by
  have hpos : 0 < (restOfPlan s).length := by rw [restOfPlan_length]; exact Nat.sub_pos_of_lt (hs.busy_left hb)
  obtain ⟨m, hm⟩ := Nat.exists_eq_add_one.mpr hpos
  have he : (restOfPlan s)[m]? = some (restOfPlan s)[m] := List.getElem?_eq_getElem (by omega)
  rw [hm, List.replicate_succ', List.append_assoc] at hr
  rw [hm, run_deliveredState_succ he hs hb hin hr]
  exact congrArg Host.Outcome.next (emitEntry_last he hs hm later)

/-- Settles O56: the elements of the completed state. -/
theorem answeredPlanRunsToCompletion : Obligations.AnsweredPlanRunsToCompletion :=
  fun _ _ hs hb hin hr => ⟨_, run_completes hs hb hin hr, rfl, rfl, rfl, hs.index_toNat le_rfl, rfl, rfl, rfl, rfl⟩

theorem run_of_idle {s : State} (hb : s.busy = false) (hin : s.inbox = []) (n : Nat) : Sys2Proof.core.run n s = .next s :=
  run_of_step_self (by rw [step_quiet hin, blockStep, hb]; rfl) n

/-- Settles O57: the frames before the failed one are delivered, its Emit step fails at its index, and the block is idle. -/
theorem firstFailureEndsTheRequest : Obligations.FirstFailureEndsTheRequest := by
  intro s j e later hs hb hin he hr
  refine ⟨_, run_deliveredState_succ he hs hb hin hr, ?_⟩
  rw [emitEntry_failed rfl]
  exact ⟨rfl, deliveredState_k_toNat he hs (.err :: later), rfl, rfl, rfl, run_of_idle rfl hin⟩

/-- A request with frames, presented to an idle block that is not `FATAL` as the host's last event, every write answered `OK`: after its
Accept and one step for each frame it has completed, its plan stands in `HIST`, and the display has received it. -/
theorem run_request_completes {s : State} {w : BitVec 64} {text : List Byte} {i : Instr} {plan : List PlanEntry} (hs : s.Inv)
    (hb : s.busy = false) (hf : s.fatal = false) (hi : decodeRequest w = .ok i) (hin : s.inbox = [.request w text])
    (hemit : emitsFrames i = true) (ht : textReady (latchRequest w text { s with inbox := [] }) i)
    (hplan : planOf s.cfg (latchRequest w text s).txt i = plan) (hpos : 0 < plan.length)
    (hr : s.replies = List.replicate plan.length .ok) :
    ∃ t : State, Sys2Proof.core.run (1 + plan.length) s = .next t ∧ t.busy = false ∧ t.status = .ok ∧
      t.cv = s.cv.or (contractFlags i) ∧ t.hist = s.hist ++ deliveredEntries plan ∧
      t.disp = (deliveredEntries plan).foldl dispStep s.disp := by
  subst hplan
  have hstep := (step_request_ok hin hb hi).trans (exec_emitting_of_idle hemit ht hb hf hpos)
  have hrun := run_completes (later := []) (stepKeepsTheInvariant s _ hs hstep) rfl rfl (by rw [List.append_nil]; exact hr)
  rw [Nat.add_comm, run_succ hstep]
  exact ⟨_, hrun, rfl, rfl, rfl, rfl, rfl⟩

end Sys2Proof.Machine

/-! The statements about complete requests and the display they leave (42_controller_init.md R101, 44_frame_renderer.md R107, R110). -/

namespace Sys2Proof.Machine

/-! ### INIT -/

/-- The last initialization byte, delivered, makes the display `READY` with nothing known of it (20_memory.md R64). -/
theorem foldl_dispStep_initEntries {bytes : List Byte} (h : bytes ≠ []) (d : Disp) :
    (deliveredEntries (initEntries bytes)).foldl dispStep d = Disp.forget .ready := by
  induction bytes generalizing d with
  | nil => exact absurd rfl h
  | cons b rest ih =>
    cases rest with
    | nil => rfl
    | cons b' rest => exact ih (List.cons_ne_nil b' rest) _

/-- Settles O58: the plan of INIT runs to its completion, and its frames are those of the list's bytes. -/
theorem completeInitReadiesTheDisplay : Obligations.CompleteInitReadiesTheDisplay := by
  intro s w text hs hb hf hi hin hr
  have hpos : 0 < s.cfg.initBytes.length := Nat.lt_of_lt_of_le (by decide) (initBytes_length_ge hs.cfg_wf)
  have hlen := planInit_length s.cfg
  obtain ⟨t, hrun, hbusy, hstatus, -, hhist, hdisp⟩ :=
    run_request_completes (plan := planInit s.cfg) hs hb hf hi hin rfl trivial rfl (by rwa [hlen]) (by rwa [hlen])
  rw [planInit, foldl_dispStep_initEntries (List.length_pos_iff.mp hpos)] at hdisp
  rw [hlen] at hrun
  refine ⟨t, hrun, hbusy, hstatus, ?_, by rw [hdisp]; rfl, by rw [hdisp]; rfl, fun c => by rw [hdisp]; rfl⟩
  rw [hhist, List.drop_left, deliveredEntries_frames, planInit, initEntries_frames]
  rfl

/-! ### A cursor setting and the data bytes after it -/

/-- The display `d'` is `d` with `bytes` painted from the linear address `a` on: they fill the addresses in order, every other byte is
as before, and the cursor stands behind them. -/
structure Painted (d d' : Disp) (a : Nat) (bytes : List Byte) : Prop where
  ready : d'.ctl = .ready
  cursor : d'.cur = Cursor.ofAddress (a + bytes.length)
  inside : ∀ i (b : Byte), bytes[i]? = some b → d'.ram.read (a + i) = some b
  outside : ∀ a', a' < a ∨ a + bytes.length ≤ a' → d'.ram.read a' = d.ram.read a'

/-- The three frames of a cursor setting in range only set the cursor of a `READY` display (20_memory.md R64). -/
theorem foldl_dispStep_cursorFrames (cfg : Config) {d : Disp} {col page : Byte} (hr : d.ctl = .ready) (hc : col.toNat ≤ 127)
    (hp : page.toNat ≤ 3) : (deliveredEntries (cursorFrames cfg col page)).foldl dispStep d =
      { d with cur := Cursor.ofAddress (128 * page.toNat + col.toNat) } := by
  have hcur : cursorInRange col page = some ⟨⟨col.toNat, by omega⟩, ⟨page.toNat, by omega⟩⟩ := dif_pos ⟨by omega, by omega⟩
  rw [← cursorInRange_eq hc hp, hcur]
  exact Disp.setCursor_in_range (d := { d with cur := none }) hr hcur

theorem painted_of_cursorFrames_append_data (cfg : Config) {d : Disp} {col page : Byte} {bytes : List Byte} (hr : d.ctl = .ready)
    (hc : col.toNat ≤ 127) (hp : page.toNat ≤ 3) (hle : 128 * page.toNat + col.toNat + bytes.length ≤ 512) :
    Painted d ((deliveredEntries (cursorFrames cfg col page ++ bytes.map dataEntry)).foldl dispStep d)
      (128 * page.toNat + col.toNat) bytes := by
  have hdata : deliveredEntries (bytes.map dataEntry) = bytes.map fun b => ⟨⟨0x40, b⟩, .ok, .data⟩ := by
    rw [deliveredEntries, List.map_map]; rfl
  rw [deliveredEntries_append, List.foldl_append, foldl_dispStep_cursorFrames cfg hr hc hp, hdata]
  obtain ⟨hready, hcur, hin, hout⟩ :=
    dispStep_data_run bytes { d with cur := Cursor.ofAddress (128 * page.toNat + col.toNat) } _ hr rfl hle
  exact ⟨hready, hcur, hin, hout⟩

/-! ### CLEAR -/

/-- A `READY` display whose bytes below the linear address `a` are all zero. -/
structure ZeroedBelow (d : Disp) (a : Nat) : Prop where
  ready : d.ctl = .ready
  zero : ∀ a' < a, d.ram.read a' = some 0x00

/-- One page of CLEAR zeroes the 128 bytes of its page. -/
theorem ZeroedBelow.clearPage {d : Disp} {page : Byte} (hz : ZeroedBelow d (128 * page.toNat)) (hp : page.toNat ≤ 3) (cfg : Config) :
    ZeroedBelow ((deliveredEntries (clearPage cfg page)).foldl dispStep d) (128 * page.toNat + 128) ∧
    ((deliveredEntries (clearPage cfg page)).foldl dispStep d).cur = Cursor.ofAddress (128 * page.toNat + 128) := by
  have hpage : Machine.clearPage cfg page = cursorFrames cfg 0 page ++ (List.replicate 128 0x00).map dataEntry := by
    rw [List.map_replicate]; rfl
  obtain ⟨hready, hcur, hin, hout⟩ := painted_of_cursorFrames_append_data cfg (col := 0) (bytes := List.replicate 128 0x00)
    hz.ready (by decide) hp (by simp; omega)
  rw [← hpage] at hready hcur hin hout
  rw [List.length_replicate] at hcur hout
  refine ⟨⟨hready, fun a ha => ?_⟩, hcur⟩
  by_cases hlow : a < 128 * page.toNat
  · rw [hout a (.inl hlow), hz.zero a hlow]
  · have hbyte := hin (a - 128 * page.toNat) 0x00 (by rw [List.getElem?_replicate, if_pos (by omega)])
    rwa [show 128 * page.toNat + (0 : Byte).toNat + (a - 128 * page.toNat) = a by simp; omega] at hbyte

/-- The four pages of CLEAR zero the whole memory, and the cursor passes its end (R107). -/
theorem foldl_dispStep_planClear {d : Disp} (hr : d.ctl = .ready) (cfg : Config) :
    ZeroedBelow ((deliveredEntries (planClear cfg)).foldl dispStep d) 512 ∧
    ((deliveredEntries (planClear cfg)).foldl dispStep d).cur = none := by
  have h0 : ZeroedBelow d (128 * (0 : Byte).toNat) := ⟨hr, by simp⟩
  obtain ⟨h1, -⟩ := h0.clearPage (by decide) cfg
  obtain ⟨h2, -⟩ := ZeroedBelow.clearPage (page := 1) h1 (by decide) cfg
  obtain ⟨h3, -⟩ := ZeroedBelow.clearPage (page := 2) h2 (by decide) cfg
  rw [planClear]
  simp only [deliveredEntries_append, List.foldl_append]
  exact ZeroedBelow.clearPage (page := 3) h3 (by decide) cfg

/-- Settles O59: the plan of CLEAR runs to its completion, and every cursor's address is below 512. -/
theorem completeClearZeroesTheDisplay : Obligations.CompleteClearZeroesTheDisplay := by
  intro s w text hs hb hf hready hi hin hr
  have hlen := planClear_length s.cfg
  obtain ⟨t, hrun, hbusy, hstatus, hcv, hhist, hdisp⟩ :=
    run_request_completes (plan := planClear s.cfg) hs hb hf hi hin rfl trivial rfl (by rw [hlen]; decide) (by rwa [hlen])
  obtain ⟨⟨hctl, hzero⟩, hcur⟩ := foldl_dispStep_planClear hready s.cfg
  rw [← hdisp] at hctl hzero hcur
  rw [hlen] at hrun
  exact ⟨t, hrun, hbusy, hstatus, hcv.trans (Cv.or_none s.cv),
    by rw [hhist, List.length_append, deliveredEntries_length, hlen], hctl, hcur, fun c => hzero c.address c.address_lt⟩

/-! ### RENDER -/

/-- A start column in range is the 8-bit column that is addressed (R110). -/
theorem renderColumn_toNat {x : BitVec 32} (h0 : 0 ≤ x.toInt) (h127 : x.toInt ≤ 127) :
    x.toNat ≤ 127 ∧ (renderColumn x).toNat = x.toNat := by
  have hx := x.isLt
  rw [BitVec.toInt_eq_toNat_cond] at h0 h127
  rw [renderColumn, BitVec.toNat_setWidth]
  split at h127 <;> omega

/-- Settles O60: the plan of RENDER runs to its completion and paints the glyph stream from the start address on. -/
theorem completeRenderPaintsItsGlyphs : Obligations.CompleteRenderPaintsItsGlyphs := by
  intro s w text x page n hs hb hf hready hi hin htext h0 h127 hp hle hr
  obtain ⟨hx, hcol⟩ := renderColumn_toNat h0 h127
  obtain ⟨hop, hn⟩ := decodeRequest_render hi
  have htxt : (latchRequest w text s).txt = text := by
    rw [latchRequest_txt, if_pos hop, ← hn, ← htext, List.take_length]
  have hlatched : n.toNat ≤ (latchRequest w text s).txt.length := by rw [htxt, htext]
  have hplan : planOf s.cfg (latchRequest w text s).txt (.render x page n) = planRender s.cfg x page text := by
    rw [htxt, planOf, ← htext, List.take_length]
  have hlen : (planRender s.cfg x page text).length = 3 + 10 * n.toNat := by rw [planRender_length, htext]
  have hstream : (glyphStream s.cfg text).length = 10 * n.toNat := by rw [glyphStream_length, htext]
  obtain ⟨t, hrun, hbusy, hstatus, -, -, hdisp⟩ :=
    run_request_completes hs hb hf hi hin rfl hlatched hplan (by omega) (by rwa [hlen])
  have hpaint := painted_of_cursorFrames_append_data s.cfg (col := renderColumn x) (page := page) (bytes := glyphStream s.cfg text)
    hready (by omega) hp (by omega)
  rw [← planRender, ← hdisp, hcol] at hpaint
  obtain ⟨hctl, hcur, hinside, houtside⟩ := hpaint
  rw [hstream] at hcur houtside
  rw [hlen] at hrun
  refine ⟨t, hrun, hbusy, hstatus, hctl, fun i c j d hc hd => ?_, fun d hd => houtside d.address hd, fun d => ?_⟩
  · rw [Disp.byteAt, hd, Nat.add_assoc]
    exact hinside _ _ (glyphStream_getElem? s.cfg text i c j hc)
  · rw [hcur, Cursor.ofAddress_eq_some]

end Sys2Proof.Machine
